-- ==== Sys2Proof/Word.lean ====
section
/-! DEFINITION. The words the block is made of (spec/00_scope.md rules R10, R11): the byte, the 16-bit and 32-bit
wire words, and the binary64 number every kinematic quantity inside the block is held in. Types only: the arithmetic
stands in Machine/Numerics.lean. -/

namespace Sys2Proof

/-- R10: a byte, 8 bits, an unsigned value 0 to 255 (the rules' `u8`). -/
abbrev Byte := BitVec 8

/-- R11: the rules' `u16`, an unsigned number modulo 2^16. -/
abbrev Half := BitVec 16

/-- R11: the 32 bits of a binary32 value (`f32`), which is used only on the wire. -/
abbrev Word32 := BitVec 32

/-- R11: an IEEE-754 binary64 value (`f64`). Every datum of the format is exactly one term: `fin neg exp frac` holds the
sign, the biased exponent field (0 to 2046) and the 52-bit fraction field; `exp = 0` is a zero or a subnormal.
The NaNs are ONE term: R14 leaves a NaN's sign and payload unspecified, nothing inside the block can tell two NaNs
apart, and the pattern is drawn where one is sent (log entry 8). -/
inductive F64 where
  | nan
  | inf (neg : Bool)
  | fin (neg : Bool) (exp : Fin 2047) (frac : Fin (2 ^ 52))
  deriving DecidableEq, Repr, Inhabited

end Sys2Proof
end

