-- ==== Sys2Proof/Machine/Numerics.lean ====
section
/-! DEFINITION. Binary64 arithmetic and the two wire conversions (spec/00_scope.md rules R13, R14, R15).
A finite binary64 value is a whole number of units of 2^-1074 and a finite binary32 value a whole number of units of
2^-149, so every operation is: take the operands as whole numbers of units, compute exactly, round once. -/

namespace Sys2Proof
namespace F64

/-- The exponent of the binary64 unit: the smallest positive binary64 value is 2^-1074. -/
def unitExp : Nat := 1074

/-- The distance between the binary32 unit 2^-149 and the binary64 unit 2^-1074, as a power of two. -/
def wireShift : Nat := 925

/-- The magnitude of a finite value from its biased exponent and fraction fields, `p - 1` fraction bits, in units of the
format's smallest positive value. -/
def units (p exp frac : Nat) : Nat :=
  if exp = 0 then frac else (2 ^ (p - 1) + frac) * 2 ^ (exp - 1)

/-- R13, R14: rounding to nearest, ties to even, of the exact magnitude `n / d` units (`d > 0`) to `p` significand bits.
The answer is the magnitude PATTERN of the rounded value (biased exponent field above `p - 1` fraction bits), not yet
cut at the top of the format: `k` is how many low bits are rounded off, and a significand that rounds up to `2 ^ p`
carries into the exponent by itself. Irreducible, so that no proof unfolds the large numbers by accident: the kernel still
evaluates it. -/
@[irreducible] def roundMag (p n d : Nat) : Nat :=
  let k := Nat.log2 (n / d) + 1 - p
  let dk := d * 2 ^ k
  let q := n / dk
  let r := n % dk
  k * 2 ^ (p - 1) + (if dk < 2 * r ∨ (dk = 2 * r ∧ q % 2 = 1) then q + 1 else q)

/-- The binary64 value of a sign and a magnitude pattern; a pattern past the last finite one is the infinity. -/
def ofMag (neg : Bool) (m : Nat) : F64 :=
  if h : m / 2 ^ 52 < 2047 then .fin neg ⟨m / 2 ^ 52, h⟩ ⟨m % 2 ^ 52, Nat.mod_lt _ (Nat.two_pow_pos 52)⟩
  else .inf neg

/-- R13: the exact value `± n / d` units rounded to binary64. -/
def round (neg : Bool) (n d : Nat) : F64 := ofMag neg (roundMag 53 n d)

/-- The magnitude of a value in binary64 units; an infinity lies beyond every finite magnitude. -/
def mag : F64 → Nat
  | .nan => 0
  | .inf _ => 2 ^ 2098
  | .fin _ exp frac => units 53 exp.val frac.val

/-- The sign bit (a NaN's is unspecified and counts as clear). -/
def signBit : F64 → Bool
  | .nan => false
  | .inf neg => neg
  | .fin neg _ _ => neg

/-- The place of a value on the line of binary64 units; both zeros are at 0. -/
def place (x : F64) : Int := if x.signBit then -(x.mag : Int) else (x.mag : Int)

def isNaN : F64 → Bool
  | .nan => true
  | .inf _ => false
  | .fin _ _ _ => false

def isFinite : F64 → Bool
  | .nan => false
  | .inf _ => false
  | .fin _ _ _ => true

/-- R13: `a < b`; false when an operand is a NaN. -/
def lt (a b : F64) : Bool := !a.isNaN && !b.isNaN && decide (a.place < b.place)

/-- R13: `a <= b`; false when an operand is a NaN. -/
def le (a b : F64) : Bool := !a.isNaN && !b.isNaN && decide (a.place ≤ b.place)

/-- The zero of a sign. -/
def zeroOf (neg : Bool) : F64 := .fin neg 0 0

/-- The literal 0 of the rules: positive zero. -/
def zero : F64 := zeroOf false

/-- R13: exact conversion of an integer operand (`ppr`, `duty_x`, the literals 2, 100, 360) to `f64`. -/
def ofNat (n : Nat) : F64 := round false (n * 2 ^ unitExp) 1

/-- R13: unary minus. -/
def neg : F64 → F64
  | .nan => .nan
  | .inf s => .inf (!s)
  | .fin s exp frac => .fin (!s) exp frac

/-- The exact sum of two finite operands, rounded; an exact zero sum is negative only when both operands are. -/
def addFin (a b : F64) : F64 :=
  let t := a.place + b.place
  if t = 0 then zeroOf (a.signBit && b.signBit) else round (decide (t < 0)) t.natAbs 1

/-- R13: `a + b`. -/
def add (a b : F64) : F64 :=
  match a, b with
  | .nan, _ => .nan
  | _, .nan => .nan
  | .inf s, .inf t => if s = t then .inf s else .nan
  | .inf s, .fin _ _ _ => .inf s
  | .fin _ _ _, .inf t => .inf t
  | .fin _ _ _, .fin _ _ _ => addFin a b

/-- R13: `a - b`, which in IEEE-754 is `a + (-b)`. -/
def sub (a b : F64) : F64 := add a (neg b)

/-- R13: `a * b`. -/
def mul (a b : F64) : F64 :=
  match a, b with
  | .nan, _ => .nan
  | _, .nan => .nan
  | .inf s, .inf t => .inf (s != t)
  | .inf s, .fin t _ _ => if b.mag = 0 then .nan else .inf (s != t)
  | .fin s _ _, .inf t => if a.mag = 0 then .nan else .inf (s != t)
  | .fin s _ _, .fin t _ _ => round (s != t) (a.mag * b.mag) (2 ^ unitExp)

/-- R13: `a / b`. -/
def div (a b : F64) : F64 :=
  match a, b with
  | .nan, _ => .nan
  | _, .nan => .nan
  | .inf _, .inf _ => .nan
  | .inf s, .fin t _ _ => .inf (s != t)
  | .fin s _ _, .inf t => zeroOf (s != t)
  | .fin s _ _, .fin t _ _ =>
    if b.mag = 0 then (if a.mag = 0 then .nan else .inf (s != t))
    else round (s != t) (a.mag * 2 ^ unitExp) b.mag

/-- R15: `clamp(v, lo, hi) = if v > hi then hi else if v < lo then lo else v`; a NaN passes through. -/
def clamp (v lo hi : F64) : F64 := if lt hi v then hi else if lt v lo then lo else v

/-- R15: `min(a, b) = if b < a then b else a`. -/
def min (a b : F64) : F64 := if lt b a then b else a

/-- R15: `max(a, b) = if a < b then b else a`. -/
def max (a b : F64) : F64 := if lt a b then b else a

/-- R15: the greatest integer not above a finite `x >= 0` (the rules apply it to nothing else: log entry 4). -/
def floor (x : F64) : Nat := x.mag / 2 ^ unitExp

end F64

/-- R12: the binary32 pattern of a sign and a magnitude pattern. -/
def f32Pattern (neg : Bool) (m : Nat) : Word32 := BitVec.ofNat 32 ((if neg then 2 ^ 31 else 0) + m)

/-- R12: the exponent field, bits 30:23, of a binary32 pattern. -/
def f32Exp (w : Word32) : Nat := w.toNat / 2 ^ 23 % 256

/-- R12: the fraction field, bits 22:0, of a binary32 pattern. -/
def f32Frac (w : Word32) : Nat := w.toNat % 2 ^ 23

/-- Whether a binary32 pattern encodes a NaN. -/
def f32IsNaN (w : Word32) : Bool := f32Exp w == 255 && f32Frac w != 0

/-- R14: `f64_of_f32(f32_of_bits(w))`, exact for every pattern but a NaN, which maps to the NaN. The rounding rounds
nothing off: a binary32 significand has 24 bits. -/
def f64OfF32 (w : Word32) : F64 :=
  if f32Exp w = 255 then (if f32Frac w = 0 then .inf w.msb else .nan)
  else F64.round w.msb (F64.units 24 (f32Exp w) (f32Frac w) * 2 ^ F64.wireShift) 1

/-- R14: `bits_of_f32(f32_of_f64(x))`: rounded to the nearest binary32, ties to even, overflowing to the infinity of the
sign. The pattern of a NaN is unspecified, so the caller supplies it. -/
def f32OfF64 (nanBits : Word32) (x : F64) : Word32 :=
  match x with
  | .nan => nanBits
  | .inf s => f32Pattern s (255 * 2 ^ 23)
  | .fin s _ _ => f32Pattern s (Nat.min (F64.roundMag 24 x.mag (2 ^ F64.wireShift)) (255 * 2 ^ 23))

/-- The NaN pattern of a sign and a fraction field `payload + 1`: every NaN pattern of binary32 is one of these. -/
def nanPatternOf (draw : Bool × Fin 8388607) : Word32 := f32Pattern draw.1 (255 * 2 ^ 23 + draw.2.val + 1)

/-- R15: `SLOW_PERIOD_TICKS = floor(slowPeriod / DT)`, one `f64` division, then floor. -/
def slowPeriodTicksOf (slowPeriod dt : F64) : Nat := F64.floor (F64.div slowPeriod dt)

/-- R9: the tick periods a model admits: `DT` finite and above zero, and `SLOW_PERIOD_TICKS` a natural number `>= 1`. -/
def admittedDt (slowPeriod dt : F64) : Bool :=
  dt.isFinite && F64.lt F64.zero dt && (F64.div slowPeriod dt).isFinite && decide (1 ≤ slowPeriodTicksOf slowPeriod dt)

/-- R221, R8: the tick period of a timer clock, `(prescaler × reload) / (timer_clock / 2)` seconds. -/
def tickPeriodOf (prescaler reload : Nat) (timerClockHz : F64) : F64 :=
  F64.div (F64.ofNat (prescaler * reload)) (F64.div timerClockHz (F64.ofNat 2))

end Sys2Proof
end

