-- ==== Sys2Proof/Config.lean ====
section
/-! DEFINITION. The configuration (spec/00_scope.md rules R7, R8, R9, R17): the constants the source fixes, the two
literals the spec decides, the premise INIT_OK, the tick period as a parameter that only admitted values can have, and
the free values. -/

namespace Sys2Proof
namespace Config

/-- R7: `LEN_CONNECT`, `LEN_OPERATION`, `LEN_RESPONSE`. -/
def lenConnect : Nat := 8
def lenOperation : Nat := 14
def lenResponse : Nat := 13

/-- R7: `TRAILER`, the last byte of a RESPONSE. -/
def trailer : Byte := 0xDA#8

/-- R7: `DIAMETER_MIN`, `DIAMETER_MAX`: the binary64 nearest 0.8, and 1.25 (R152 corner case (b): every reading of
the bound 0.8 accepts the same binary32 patterns). -/
def diameterMin : F64 := .fin false 1022 0x999999999999A
def diameterMax : F64 := .fin false 1023 0x4000000000000

/-- R7: `PPR_MIN`, `PPR_MAX`. -/
def pprMin : Nat := 80
def pprMax : Nat := 128

/-- R7: `DEFAULT_PPR`, `DEFAULT_DIAMETER`, `DEFAULT_DUTY`, `DEFAULT_PHASE`. -/
def defaultPpr : Half := 128#16
def defaultDiameter : F64 := F64.ofNat 1
def defaultDuty : Fin 101 := 50
def defaultPhase : F64 := F64.ofNat 90

/-- R7, R15: `SLOW_RESPONSE_PERIOD`, the binary64 nearest 1/20 second. -/
def slowResponsePeriod : F64 := .fin false 1018 0x999999999999A

/-- R7: `PRESCALER`, `RELOAD`, the tick source's reference configuration. -/
def prescaler : Nat := 20
def reload : Nat := 65

/-- R8: `VELOCITY_MAX`, the spec's decided literal 0x1.84e38e38e38e4p+7 (D4). -/
def velocityMax : F64 := .fin false 1030 0x84E38E38E38E4

/-- R8: `PI`, the spec's decided literal 0x1.921fb54442d18p+1 (D3). -/
def pi : F64 := .fin false 1024 0x921FB54442D18

/-- R8: the default of the premise `INIT_OK` (log entry 5). -/
def initOk : Bool := true

end Config

/-- R8, R9, R17: the parameter `DT` of a run, which nothing changes. A configuration R9 refuses is no term of this type.
The default of `dt` is the spec's test instantiation 2^-7 s: it is here only as the witness that an admitted period
exists, and no definition uses it (log entry 1). -/
structure Params where
  dt : F64 := .fin false 1016 0
  admitted : admittedDt Config.slowResponsePeriod dt = true := by decide +kernel
  deriving DecidableEq, Repr, Inhabited

/-- R8: `SLOW_PERIOD_TICKS`, derived from `DT`. -/
def Params.slowPeriodTicks (p : Params) : Nat := slowPeriodTicksOf Config.slowResponsePeriod p.dt

namespace Config

/-- R8: `DT` is OPEN: any admitted tick period, the same for the whole run (log entry 1). -/
opaque params : Params

/-- R45, U4: the level of each of the four outputs from `Reset` until it is first written is unspecified, each output
independently: a free value (log entry 6). The arguments are the axle number and whether the channel is B. -/
opaque sinkAtReset : Nat → Bool → Bool

/-- R14, U6: the pattern of a NaN sent in a RESPONSE is any NaN pattern (sign and payload): a free value, a fresh one for
each draw (log entry 8). -/
opaque nanDraw : Nat → Bool × Fin 8388607

end Config
end Sys2Proof
end

