-- ==== Sys2Proof/Machine/EncoderState.lean ====
section
/-! DEFINITION. The Encoder record (spec/10_state.md rules R20 to R30) and the names of axles and channels. Types only:
the operations stand in Machine/EncoderModel.lean. -/

namespace Sys2Proof
namespace Machine

/-- R18, R20: the two axles; `enc[1]` is `one`, `enc[2]` is `two`. -/
inductive Axle where
  | one
  | two
  deriving DecidableEq, Repr, Inhabited

/-- R12, R18: the two channels of an axle. -/
inductive Channel where
  | a
  | b
  deriving DecidableEq, Repr, Inhabited

/-- R30: `Sab` is channel A at level `a` and channel B at level `b`. -/
inductive QState where
  | s00
  | s01
  | s10
  | s11
  | unknown
  deriving DecidableEq, Repr, Inhabited

/-- R22: the fault-injection fields. The spec gives them no type, no reset value, no reader and no writer: each is
carried as an uninterpreted number (log entry 9). -/
structure FaultInjection where
  stuckA : Nat
  stuckB : Nat
  freqErrorA : Nat
  freqErrorB : Nat
  freqErrorPerStep : Nat
  deriving DecidableEq, Repr, Inhabited

/-- R20: one Encoder record, fields in the order of the rules R21 to R30. -/
structure Encoder where
  dutyA : Fin 101
  dutyB : Fin 101
  faultInjection : FaultInjection
  phaseDeg : F64
  ppr : Half
  wheelDiameterM : F64
  stepLengthM : F64
  posA : F64
  posB : F64
  velocityMps : F64
  accelerationMps2 : F64
  pulseCount : Half
  quadratureState : QState
  deriving DecidableEq, Repr, Inhabited

end Machine
end Sys2Proof
end

