-- ==== Sys2Proof/Machine/EncoderModel.lean ====
section
/-! DEFINITION. The Encoder Model (spec/40_encoder_model.md): the operations on one Encoder record. None touches
another record (R20), none writes a flag of the Connection State, none raises an error. -/

namespace Sys2Proof
namespace Machine
namespace Encoder

/-- R127: `set_ppr(e, p)`. It does not recompute the step length. -/
def setPpr (p : Half) (e : Encoder) : Encoder := { e with ppr := p }

/-- R128: `set_wheel_diameter(e, d)`. It does not recompute the step length. -/
def setWheelDiameter (d : F64) (e : Encoder) : Encoder := { e with wheelDiameterM := d }

/-- R129: `set_velocity(e, v)`: no saturation, no finiteness check. -/
def setVelocity (v : F64) (e : Encoder) : Encoder := { e with velocityMps := v }

/-- R130: `set_acceleration(e, a)`: no bound, no check. -/
def setAcceleration (a : F64) (e : Encoder) : Encoder := { e with accelerationMps2 := a }

/-- R26, R131: `(wheel_diameter_m * PI) / (2 * ppr)`. -/
def stepLengthOf (diameter : F64) (ppr : Half) : F64 :=
  F64.div (F64.mul diameter Config.pi) (F64.ofNat (2 * ppr.toNat))

/-- R131: `recompute_step_length(e)`. -/
def recomputeStepLength (e : Encoder) : Encoder := { e with stepLengthM := stepLengthOf e.wheelDiameterM e.ppr }

/-- R132, R50: `reset(e)`. The fault-injection fields are left alone. -/
def reset (e : Encoder) : Encoder :=
  recomputeStepLength
    { e with
      velocityMps := F64.zero, accelerationMps2 := F64.zero, posA := F64.zero, posB := F64.zero,
      dutyA := Config.defaultDuty, dutyB := Config.defaultDuty, phaseDeg := Config.defaultPhase,
      ppr := Config.defaultPpr, wheelDiameterM := Config.defaultDiameter,
      quadratureState := .unknown, pulseCount := 0#16 }

/-- R240, R50: the record at system start, made by `reset`; the fields `reset` leaves alone are zero (log entry 9). -/
def atSystemStart : Encoder :=
  reset
    { dutyA := 0, dutyB := 0, faultInjection := ⟨0, 0, 0, 0, 0⟩, phaseDeg := F64.zero, ppr := 0#16,
      wheelDiameterM := F64.zero, stepLengthM := F64.zero, posA := F64.zero, posB := F64.zero,
      velocityMps := F64.zero, accelerationMps2 := F64.zero, pulseCount := 0#16, quadratureState := .unknown }

/-- The factor 2 of the rules. -/
def twice (x : F64) : F64 := F64.mul (F64.ofNat 2) x

/-- R120 steps 1 and 2: the velocity after an update, integrated and then saturated. -/
def nextVelocity (dt : F64) (e : Encoder) : F64 :=
  F64.clamp (F64.add e.velocityMps (F64.mul e.accelerationMps2 dt)) (F64.neg Config.velocityMax) Config.velocityMax

/-- R120 step 4: `k = -phase_deg / 360`. -/
def phaseFraction (e : Encoder) : F64 := F64.div (F64.neg e.phaseDeg) (F64.ofNat 360)

/-- R120 step 5: the two positions, wrapped by at most one period `2 * step_length_m`. -/
def wrap (stepLength posA posB : F64) : F64 × F64 :=
  let period := twice stepLength
  if F64.le (F64.min posA posB) (F64.neg period) then (F64.add posA period, F64.add posB period)
  else if F64.le period (F64.max posA posB) then (F64.sub posA period, F64.sub posB period)
  else (posA, posB)

/-- R120: `update(e, dt)`, the kinematic integrator. -/
def update (dt : F64) (e : Encoder) : Encoder :=
  let v := nextVelocity dt e
  let a := F64.add e.posA (F64.mul v dt)
  let b := F64.add a (F64.mul (twice e.stepLengthM) (phaseFraction e))
  let w := wrap e.stepLengthM a b
  { e with velocityMps := v, posA := w.1, posB := w.2 }

/-- R124: `level(e, pos, duty)`, the level of one channel; a position outside the range, or NaN, is low. -/
def level (e : Encoder) (pos : F64) (duty : Fin 101) : Bool :=
  let k := F64.div (F64.ofNat duty.val) (F64.ofNat 100)
  let posMax := twice e.stepLengthM
  let posMin := F64.mul (F64.neg (F64.ofNat 2)) e.stepLengthM
  let posPos := F64.mul k posMax
  let posNeg := F64.mul (F64.sub (F64.ofNat 1) k) posMin
  (F64.le posMin pos && F64.lt pos posNeg) || (F64.le F64.zero pos && F64.lt pos posPos)

/-- R123: the level of channel A, from `pos_a` and `duty_a`. -/
def levelA (e : Encoder) : Bool := level e e.posA e.dutyA

/-- R123: the level of channel B, from `pos_b` and `duty_b`. -/
def levelB (e : Encoder) : Bool := level e e.posB e.dutyB

/-- R125: the state two levels map to. -/
def mapped (a b : Bool) : QState :=
  match a, b with
  | false, false => .s00
  | false, true => .s01
  | true, false => .s10
  | true, true => .s11

/-- R125: `decode(e, level_a, level_b)`, the Gray-code step and counter. -/
def decode (a b : Bool) (e : Encoder) : Encoder :=
  if mapped a b = e.quadratureState then e
  else
    { e with
      pulseCount := if e.quadratureState = .unknown then e.pulseCount else e.pulseCount + 1#16,
      quadratureState := mapped a b }

/-- R190 step 1: the clearing of the count on a slow tick. -/
def clearCount (e : Encoder) : Encoder := { e with pulseCount := 0#16 }

end Encoder
end Machine
end Sys2Proof
end

