-- ==== Sys2Proof/Machine/State.lean ====
section
/-! DEFINITION. The state of the block (spec/10_state.md), why a step can stop, and the state after `Reset`. -/

namespace Sys2Proof
namespace Machine

/-- R45: the levels the two outputs of one axle are driven to. -/
structure Levels where
  a : Bool
  b : Bool
  deriving DecidableEq, Repr, Inhabited

/-- R16: a step of one of the two agents, with the byte the host supplied for it. -/
inductive Event where
  /-- R150: the foreground task consumes the byte `b`. -/
  | rxByte (b : Byte)
  /-- R190: the tick source fires. -/
  | tick
  deriving DecidableEq, Repr, Inhabited

/-- The state. The last three fields are the model's own: `params` is the run's configuration, which no step writes (R17;
log entry 1), `arrivals` is the environment's (log entry 3), `nanDraws` counts the free NaN patterns drawn (log entry 8). -/
structure State where
  /-- R20: `enc[1]`. -/
  enc1 : Encoder
  /-- R20: `enc[2]`. -/
  enc2 : Encoder
  /-- R40: the protocol state, and the mode (R220). -/
  connected : Bool
  /-- R41. -/
  handshakePending : Bool
  /-- R42, R65: the telegram buffer; bytes at offsets `>= rxLen` have no meaning. -/
  rxBuf : Vector Byte 14
  /-- R42: how many bytes of the telegram have been consumed. -/
  rxLen : Nat
  /-- R43. -/
  slowTicksElapsed : Nat
  /-- R45: `out[1][A]`, `out[1][B]`. -/
  out1 : Levels
  /-- R45: `out[2][A]`, `out[2][B]`. -/
  out2 : Levels
  /-- R46: every byte sent since reset, in order. -/
  tx : List Byte
  /-- R47. -/
  halted : Bool
  /-- R8, R17: the parameter `DT`. -/
  params : Params
  /-- R16, R61, R71: the next steps in the order they come, with the host's bytes; when none is supplied the next step is
  a `Tick` (R62). -/
  arrivals : List Event
  /-- R14, U6: how many NaN patterns have been drawn. -/
  nanDraws : Nat
  deriving DecidableEq, Repr

/-- Why a step stops with a fault. Each is a stuck state, and safe: the model does nothing where nothing is stated. -/
inductive Fault where
  /-- Raised by `step` in a halted block: initialisation failed and no step exists (R47, R214, R246). Safe. -/
  | halted
  /-- Raised by `RxByte` when `rx_len` is not in 0 to 13, which R42 excludes and no run reaches (log entry 12). Safe. -/
  | rxOverrun
  deriving DecidableEq, Repr

/-- Why a step is refused. -/
inductive Refusal where
  /-- Raised by `exec` for an instruction without a meaning; no arm raises it. Safe. -/
  | notModelled (mnemonic : String)
  deriving DecidableEq, Repr

/-- R50, R240: the state after `Reset`, for a premise `INIT_OK` and a configuration. -/
def State.resetWith (initOk : Bool) (params : Params) : State where
  enc1 := Encoder.atSystemStart
  enc2 := Encoder.atSystemStart
  connected := false
  handshakePending := false
  rxBuf := Vector.replicate 14 0#8
  rxLen := 0
  slowTicksElapsed := 0
  out1 := { a := Config.sinkAtReset 1 false, b := Config.sinkAtReset 1 true }
  out2 := { a := Config.sinkAtReset 2 false, b := Config.sinkAtReset 2 true }
  tx := []
  halted := !initOk
  params := params
  arrivals := []
  nanDraws := 0

/-- R50, R240: the state after `Reset`. -/
def State.reset : State := State.resetWith Config.initOk Config.params

end Machine
end Sys2Proof
end

