-- ==== Sys2Proof/Machine/Flags.lean ====
section
/-! DEFINITION. The block's two flags (spec/10_state.md rules R40, R41; the transitions are R166's). -/

namespace Sys2Proof
namespace Machine
namespace State

/-- R41: write `handshake_pending`. -/
def withHandshake (v : Bool) (s : State) : State := { s with handshakePending := v }

/-- R40: write `connected`. -/
def withConnected (v : Bool) (s : State) : State := { s with connected := v }

/-- R41, R153: the end of every telegram but DISCONNECT: a RESPONSE is owed. -/
def requestResponse (s : State) : State := s.withHandshake true

/-- R164: the test of `send_response`. -/
def responseOwed (s : State) : Bool := s.connected && s.handshakePending

end State
end Machine
end Sys2Proof
end

