-- ==== Sys2Proof/Syntax.lean ====
section
/-! DEFINITION. The instructions: one constructor per row of spec/opcode_table.json (spec/30_encoding.md rules R90 to
R96). Multi-byte fields stand as the words the wire carries; a field a telegram carries and its meaning ignores is kept,
so that no bit of an encoding is dropped. -/

namespace Sys2Proof

/-- R92: what every OPERATION telegram carries beside its command id: the two `f32` slots, bytes 0 to 3 and 4 to 7, and
the five reserved bytes 9 to 13 (named as in R100). -/
structure Payload where
  valA : Word32
  valB : Word32
  r9 : Byte
  r10 : Byte
  r11 : Byte
  r12 : Byte
  r13 : Byte
  deriving DecidableEq, Repr, Inhabited

/-- R90: the three telegram formats, `C`, `O` and `R`. Nothing in a telegram's bytes names its format: the block's state
or the direction selects it (R95, R102). -/
inductive Format where
  | connect
  | operation
  | response
  deriving DecidableEq, Repr, Inhabited

/-- R96, R102: the telegrams. -/
inductive Instr where
  /-- CONNECT, R91, R151. -/
  | connect (wheelDiameter : Word32) (ppr1 ppr2 : Half)
  /-- NOP, id 0x00, R154. -/
  | nop (p : Payload)
  /-- SETV1, id 0x01, R155. -/
  | setv1 (p : Payload)
  /-- SETV2, id 0x02, R156. -/
  | setv2 (p : Payload)
  /-- SETVB, id 0x03, R157. -/
  | setvb (p : Payload)
  /-- SETA1, id 0x04, R158. -/
  | seta1 (p : Payload)
  /-- SETA2, id 0x05, R159. -/
  | seta2 (p : Payload)
  /-- SETAB, id 0x06, R160. -/
  | setab (p : Payload)
  /-- DISCONNECT, id 0x07, R161. -/
  | disconnect (p : Payload)
  /-- STOP, id 0x08, R162. -/
  | stop (p : Payload)
  /-- RSVD, ids 0x09 to 0xFF, R163; the id is a field of the telegram. -/
  | rsvd (id : Byte) (p : Payload)
  /-- RESPONSE, R93, R164: the only telegram the device sends. The four fields are what it carries; the block fills
  them in from its state (log entry 10). -/
  | response (velocity1 velocity2 : Word32) (count1 count2 : Half)
  deriving DecidableEq, Repr, Inhabited

/-- R90: the format of a telegram. -/
def Instr.format : Instr → Format
  | .connect _ _ _ => .connect
  | .nop _ => .operation
  | .setv1 _ => .operation
  | .setv2 _ => .operation
  | .setvb _ => .operation
  | .seta1 _ => .operation
  | .seta2 _ => .operation
  | .setab _ => .operation
  | .disconnect _ => .operation
  | .stop _ => .operation
  | .rsvd _ _ => .operation
  | .response _ _ _ _ => .response

end Sys2Proof
end

