-- ==== Sys2Proof/WellFormed.lean ====
section
/-! DEFINITION. Which terms of Instr are telegrams. The only check is R96's: a reserved telegram's id is none of
0x00 to 0x08, which are other constructors. Every bit pattern of every other field is a telegram (R94, R99). -/

namespace Sys2Proof

/-- R96, R97: the ids 0x09 to 0xFF. -/
def reservedId (id : Byte) : Bool := decide (9 ≤ id.toNat)

/-- A term of Instr that some bytes encode. -/
def Instr.wellFormed : Instr → Bool
  | .connect _ _ _ => true
  | .nop _ => true
  | .setv1 _ => true
  | .setv2 _ => true
  | .setvb _ => true
  | .seta1 _ => true
  | .seta2 _ => true
  | .setab _ => true
  | .disconnect _ => true
  | .stop _ => true
  | .rsvd id _ => reservedId id
  | .response _ _ _ _ => true

end Sys2Proof
end

