-- ==== Sys2Proof/Decode.lean ====
section
/-! DEFINITION. Decoding and encoding of telegrams (spec/30_encoding.md rules R90 to R99, spec/20_memory.md rule R66).
The decoder is total: a RECEIVED telegram always decodes (R94), and a list of bytes is refused by name only when its
length is not its format's or a RESPONSE does not end in 0xDA. The encoder stands after it. -/

namespace Sys2Proof

/-- R12: `le16(b0, b1)`, little-endian. -/
def le16 (b0 b1 : Byte) : Half := b1 ++ b0

/-- R12: `le32(b0, b1, b2, b3)`, little-endian. -/
def le32 (b0 b1 b2 b3 : Byte) : Word32 := b3 ++ b2 ++ b1 ++ b0

/-- R12: `bytes_le16(v)`, least significant first. -/
def bytesLe16 (v : Half) : List Byte := [v.extractLsb' 0 8, v.extractLsb' 8 8]

/-- R12: `bytes_le32(w)`, least significant first. -/
def bytesLe32 (w : Word32) : List Byte :=
  [w.extractLsb' 0 8, w.extractLsb' 8 8, w.extractLsb' 16 8, w.extractLsb' 24 8]

/-- R96: the telegram a command id selects. -/
def operationOf (id : Byte) (p : Payload) : Instr :=
  match id.toNat with
  | 0 => .nop p
  | 1 => .setv1 p
  | 2 => .setv2 p
  | 3 => .setvb p
  | 4 => .seta1 p
  | 5 => .seta2 p
  | 6 => .setab p
  | 7 => .disconnect p
  | 8 => .stop p
  | _ => .rsvd id p

/-- R91, R94: the CONNECT of 8 bytes. -/
def decodeConnect (b0 b1 b2 b3 b4 b5 b6 b7 : Byte) : Instr :=
  .connect (le32 b0 b1 b2 b3) (le16 b4 b5) (le16 b6 b7)

/-- R92, R94, R96: the OPERATION of 14 bytes. -/
def decodeOperation (b0 b1 b2 b3 b4 b5 b6 b7 b8 b9 b10 b11 b12 b13 : Byte) : Instr :=
  operationOf b8 { valA := le32 b0 b1 b2 b3, valB := le32 b4 b5 b6 b7, r9 := b9, r10 := b10, r11 := b11, r12 := b12, r13 := b13 }

/-- Why bytes are no telegram of a format. The block itself never meets these: it counts bytes and refuses none (R67,
R99); they answer a reader of byte lists. -/
inductive DecodeError where
  /-- R90: each format has one length. -/
  | wrongLength (format : Format) (length : Nat)
  /-- R93: a RESPONSE ends in 0xDA. -/
  | wrongTrailer (byte : Byte)
  deriving DecidableEq, Repr

/-- R91 to R94: the telegram of a format that a list of bytes is. -/
def decode (format : Format) (bytes : List Byte) : Except DecodeError Instr :=
  match format, bytes with
  | .connect, [b0, b1, b2, b3, b4, b5, b6, b7] => .ok (decodeConnect b0 b1 b2 b3 b4 b5 b6 b7)
  | .operation, [b0, b1, b2, b3, b4, b5, b6, b7, b8, b9, b10, b11, b12, b13] =>
    .ok (decodeOperation b0 b1 b2 b3 b4 b5 b6 b7 b8 b9 b10 b11 b12 b13)
  | .response, [b0, b1, b2, b3, b4, b5, b6, b7, b8, b9, b10, b11, b12] =>
    if b12 = Config.trailer then .ok (.response (le32 b0 b1 b2 b3) (le32 b4 b5 b6 b7) (le16 b8 b9) (le16 b10 b11))
    else .error (.wrongTrailer b12)
  | .connect, bs => .error (.wrongLength .connect bs.length)
  | .operation, bs => .error (.wrongLength .operation bs.length)
  | .response, bs => .error (.wrongLength .response bs.length)

/-- R65, R95: the telegram in the 14-byte buffer when it is complete, a CONNECT in `Disconnected` and an OPERATION in
`Connected`. Total: there is no illegal received telegram at this level (R94, R99). -/
def decodeBuffer (connected : Bool) (buf : Vector Byte 14) : Instr :=
  if connected then
    decodeOperation buf[0] buf[1] buf[2] buf[3] buf[4] buf[5] buf[6] buf[7] buf[8] buf[9] buf[10] buf[11] buf[12] buf[13]
  else decodeConnect buf[0] buf[1] buf[2] buf[3] buf[4] buf[5] buf[6] buf[7]

/-- R7, R90: the one length of a format. -/
def Format.length : Format → Nat
  | .connect => Config.lenConnect
  | .operation => Config.lenOperation
  | .response => Config.lenResponse

/-- R92: the 14 bytes of an OPERATION telegram. -/
def encodeOperation (id : Byte) (p : Payload) : List Byte :=
  bytesLe32 p.valA ++ bytesLe32 p.valB ++ [id, p.r9, p.r10, p.r11, p.r12, p.r13]

/-- R91 to R96: the bytes of a telegram, first byte on the link first. -/
def encode : Instr → List Byte
  | .connect d p1 p2 => bytesLe32 d ++ bytesLe16 p1 ++ bytesLe16 p2
  | .nop p => encodeOperation 0x00#8 p
  | .setv1 p => encodeOperation 0x01#8 p
  | .setv2 p => encodeOperation 0x02#8 p
  | .setvb p => encodeOperation 0x03#8 p
  | .seta1 p => encodeOperation 0x04#8 p
  | .seta2 p => encodeOperation 0x05#8 p
  | .setab p => encodeOperation 0x06#8 p
  | .disconnect p => encodeOperation 0x07#8 p
  | .stop p => encodeOperation 0x08#8 p
  | .rsvd id p => encodeOperation id p
  | .response v1 v2 c1 c2 => bytesLe32 v1 ++ bytesLe32 v2 ++ bytesLe16 c1 ++ bytesLe16 c2 ++ [Config.trailer]

/-- `n` bytes of a number, least significant first. -/
def bytesOfNat : Nat → Nat → List Byte
  | 0, _ => []
  | n + 1, w => BitVec.ofNat 8 w :: bytesOfNat n (w / 256)

/-- The format of a row of spec/opcode_table.json by the number of bits the row is given: 64 is CONNECT, 104 is
RESPONSE, and an OPERATION row numbers the bits of its command byte alone (log entry 11). -/
def tableFormat (nbits : Nat) : Format :=
  if nbits = 64 then .connect else if nbits = 104 then .response else .operation

/-- The bytes of a table word. A CONNECT or RESPONSE row has no numbered bits of its own, so its word counts from the
telegram's first byte; an OPERATION row's `match`, `mask` and `fixed` number byte 8 from bit 0 (R102), so bits 7 to 0
are byte 8 and later bits go on with bytes 0 to 7 and then 9 to 13 (log entry 11). -/
def tableBytes (nbits w : Nat) : List Byte :=
  match tableFormat nbits with
  | .connect => bytesOfNat 8 w
  | .response => bytesOfNat 13 w
  | .operation => bytesOfNat 8 (w / 2 ^ 8) ++ bytesOfNat 1 w ++ bytesOfNat 5 (w / 2 ^ 72)

/-- The instruction the decoder reads from a table word; none where it refuses. -/
def decodeTableWord (nbits w : Nat) : Option Instr :=
  match decode (tableFormat nbits) (tableBytes nbits w) with
  | .ok i => some i
  | .error _ => none

end Sys2Proof
end

