-- ==== Sys2Proof/Machine/Operands.lean ====
section
/-! DEFINITION. The operands of a telegram as the block uses them (spec/30_encoding.md rule R94), and the validation of
a CONNECT's (spec/41_protocol_engine.md rule R152). -/

namespace Sys2Proof

/-- R94, R153: `a`, the exact `f64` image of the first slot. -/
def Payload.a (p : Payload) : F64 := f64OfF32 p.valA

/-- R94, R153: `b`, the exact `f64` image of the second slot. -/
def Payload.b (p : Payload) : F64 := f64OfF32 p.valB

namespace Machine

/-- R152: the diameter test; a NaN fails it. -/
def validDiameter (d : F64) : Bool := F64.le Config.diameterMin d && F64.le d Config.diameterMax

/-- R152: the `ppr` test. -/
def validPpr (p : Half) : Bool := decide (Config.pprMin ≤ p.toNat) && decide (p.toNat ≤ Config.pprMax)

/-- R152: `valid_connect(d, p1, p2)`. -/
def validConnect (d : F64) (p1 p2 : Half) : Bool := validDiameter d && validPpr p1 && validPpr p2

end Machine
end Sys2Proof
end

