-- ==== Sys2Proof/Machine/Ops.lean ====
section
/-! DEFINITION. The named operations on the state that the meanings and the two steps share: access to the Encoder
records, the sink, the transmit stream, the telegram buffer, `send_response`. The block takes no exception that saves,
masks or transfers anything (R210, R217, R218), so no such operation stands here; its one interrupt is
Machine/Scheduler.lean's `onTick`. -/

namespace Sys2Proof
namespace Machine
namespace State

/-- R12: `enc[i]`. -/
def enc (s : State) : Axle → Encoder
  | .one => s.enc1
  | .two => s.enc2

/-- R12: an operation applied to `enc[i]`. -/
def onEnc (i : Axle) (f : Encoder → Encoder) (s : State) : State :=
  match i with
  | .one => { s with enc1 := f s.enc1 }
  | .two => { s with enc2 := f s.enc2 }

/-- R45: `out[i]`. -/
def out (s : State) : Axle → Levels
  | .one => s.out1
  | .two => s.out2

/-- One channel of an axle's outputs set. -/
def setLevel (ch : Channel) (v : Bool) (l : Levels) : Levels :=
  match ch with
  | .a => { l with a := v }
  | .b => { l with b := v }

/-- R64: `SinkWrite(axle, ch, level)`. -/
def sinkWrite (i : Axle) (ch : Channel) (v : Bool) (s : State) : State :=
  match i with
  | .one => { s with out1 := setLevel ch v s.out1 }
  | .two => { s with out2 := setLevel ch v s.out2 }

/-- R63: `TxAppend(bytes)`: it never blocks and never drops. -/
def txAppend (bytes : List Byte) (s : State) : State := { s with tx := s.tx ++ bytes }

/-- R95: the length of the telegram being received, from the mode. -/
def need (s : State) : Nat := if s.connected then Config.lenOperation else Config.lenConnect

/-- R150: the consumed byte put at offset `rx_len`, and `rx_len` counted up. -/
def rxPut (b : Byte) (s : State) : State :=
  { s with rxBuf := s.rxBuf.setIfInBounds s.rxLen b, rxLen := s.rxLen + 1 }

/-- R150: `rx_len <- 0` when a telegram is complete. The buffer's contents are dead from then on and the spec leaves them
open (R50, R65, U17): that they stay as they are is the model's choice (log entry 17). -/
def rxDone (s : State) : State := { s with rxLen := 0 }

/-- R16: the arrival a step has taken is gone (R62: a read is destructive). -/
def withArrivals (rest : List Event) (s : State) : State := { s with arrivals := rest }

/-- R43: write `slow_ticks_elapsed`. -/
def withSlowTicks (n : Nat) (s : State) : State := { s with slowTicksElapsed := n }

/-- Both NaN patterns a RESPONSE may need have been drawn (log entry 8). -/
def drawNaNs (s : State) : State := { s with nanDraws := s.nanDraws + 2 }

/-- R93, R94: the bits the velocity of an axle is sent as; the pattern of a NaN is the free value of draw `n`. -/
def sentVelocity (s : State) (i : Axle) (n : Nat) : Word32 :=
  f32OfF64 (nanPatternOf (Config.nanDraw n)) (s.enc i).velocityMps

/-- R93, R164: the RESPONSE telegram of a state. -/
def responseTelegram (s : State) : Instr :=
  .response (s.sentVelocity .one s.nanDraws) (s.sentVelocity .two (s.nanDraws + 1)) s.enc1.pulseCount s.enc2.pulseCount

/-- R164: `send_response()`: nothing unless `connected` and `handshake_pending`; else the 13 bytes are appended and the
flag is cleared. The counts are not cleared here. -/
def sendResponse (s : State) : State :=
  if s.responseOwed then ((s.txAppend (encode s.responseTelegram)).drawNaNs).withHandshake false else s

end State
end Machine
end Sys2Proof
end

