-- ==== Sys2Proof/Machine/Connect.lean ====
section
/-! DEFINITION. The meaning of CONNECT (spec/41_protocol_engine.md rule R151). -/

namespace Sys2Proof
namespace Machine

/-- R151: the writes of an accepted CONNECT to one Encoder: the diameter, the axle's `ppr`, the step length. -/
def Encoder.configure (d : F64) (p : Half) (e : Encoder) : Encoder :=
  ((e.setWheelDiameter d).setPpr p).recomputeStepLength

/-- R151: `process_connect`: validated whole; accepted, both Encoders are configured and the block is `Connected`;
rejected, nothing is written. Either way a RESPONSE is requested. -/
def processConnect (d : F64) (p1 p2 : Half) (s : State) : State :=
  let accepted := ((s.onEnc .one (Encoder.configure d p1)).onEnc .two (Encoder.configure d p2)).withConnected true
  (if validConnect d p1 p2 then accepted else s).requestResponse

/-- CONNECT, R151. -/
def execConnect (wheelDiameter : Word32) (ppr1 ppr2 : Half) (s : State) : Host.Outcome State Fault Refusal :=
  .next (processConnect (f64OfF32 wheelDiameter) ppr1 ppr2 s)

end Machine
end Sys2Proof
end

