-- ==== Sys2Proof/Machine/Operation.lean ====
section
/-! DEFINITION. The meanings of the OPERATION telegrams (spec/41_protocol_engine.md rules R153 to R163). No command
validates its payload; every one but DISCONNECT ends by requesting a RESPONSE. -/

namespace Sys2Proof
namespace Machine

/-- NOP, R154: it requests a RESPONSE and does nothing else. -/
def execNop (_p : Payload) (s : State) : Host.Outcome State Fault Refusal :=
  .next s.requestResponse

/-- SETV1, R155: the velocity of encoder 1 from the first slot. -/
def execSetv1 (p : Payload) (s : State) : Host.Outcome State Fault Refusal :=
  .next (s.onEnc .one (Encoder.setVelocity p.a)).requestResponse

/-- SETV2, R156: the velocity of encoder 2 from the second slot. -/
def execSetv2 (p : Payload) (s : State) : Host.Outcome State Fault Refusal :=
  .next (s.onEnc .two (Encoder.setVelocity p.b)).requestResponse

/-- SETVB, R157: both velocities. -/
def execSetvb (p : Payload) (s : State) : Host.Outcome State Fault Refusal :=
  .next ((s.onEnc .one (Encoder.setVelocity p.a)).onEnc .two (Encoder.setVelocity p.b)).requestResponse

/-- SETA1, R158: the acceleration of encoder 1 from the first slot. -/
def execSeta1 (p : Payload) (s : State) : Host.Outcome State Fault Refusal :=
  .next (s.onEnc .one (Encoder.setAcceleration p.a)).requestResponse

/-- SETA2, R159: the acceleration of encoder 2 from the second slot. -/
def execSeta2 (p : Payload) (s : State) : Host.Outcome State Fault Refusal :=
  .next (s.onEnc .two (Encoder.setAcceleration p.b)).requestResponse

/-- SETAB, R160: both accelerations. -/
def execSetab (p : Payload) (s : State) : Host.Outcome State Fault Refusal :=
  .next ((s.onEnc .one (Encoder.setAcceleration p.a)).onEnc .two (Encoder.setAcceleration p.b)).requestResponse

/-- DISCONNECT, R161: both Encoders reset, `connected` and `handshake_pending` cleared. -/
def execDisconnect (_p : Payload) (s : State) : Host.Outcome State Fault Refusal :=
  .next (((s.onEnc .one Encoder.reset).onEnc .two Encoder.reset).withConnected false |>.withHandshake false)

/-- R162: the writes of STOP to one Encoder. -/
def Encoder.halt (e : Encoder) : Encoder := (e.setVelocity F64.zero).setAcceleration F64.zero

/-- STOP, R162: both velocities and accelerations zeroed; the block stays `Connected`. -/
def execStop (_p : Payload) (s : State) : Host.Outcome State Fault Refusal :=
  .next ((s.onEnc .one Encoder.halt).onEnc .two Encoder.halt).requestResponse

/-- RSVD, R163, R97: no-op that requests a RESPONSE, whatever the id. -/
def execRsvd (_id : Byte) (_p : Payload) (s : State) : Host.Outcome State Fault Refusal :=
  .next s.requestResponse

end Machine
end Sys2Proof
end

