-- ==== Sys2Proof/Machine/Response.lean ====
section
/-! DEFINITION. The meaning of RESPONSE (spec/41_protocol_engine.md rule R164). -/

namespace Sys2Proof
namespace Machine

/-- RESPONSE, R164: the operation `send_response()`, which has no operands: the telegram it sends is filled in from the
state (R93), so the four fields of the term are not read (log entry 10). -/
def execResponse (_velocity1 _velocity2 : Word32) (_count1 _count2 : Half) (s : State) :
    Host.Outcome State Fault Refusal :=
  .next s.sendResponse

end Machine
end Sys2Proof
end

