-- ==== Sys2Proof/Machine/Dispatch.lean ====
section
/-! DEFINITION. One arm per instruction, each a direct call of its meaning. -/

namespace Sys2Proof
namespace Machine

def exec (i : Instr) (s : State) : Host.Outcome State Fault Refusal :=
  match i with
  | .connect wheelDiameter ppr1 ppr2 => Sys2Proof.Machine.execConnect wheelDiameter ppr1 ppr2 s
  | .nop p => Sys2Proof.Machine.execNop p s
  | .setv1 p => Sys2Proof.Machine.execSetv1 p s
  | .setv2 p => Sys2Proof.Machine.execSetv2 p s
  | .setvb p => Sys2Proof.Machine.execSetvb p s
  | .seta1 p => Sys2Proof.Machine.execSeta1 p s
  | .seta2 p => Sys2Proof.Machine.execSeta2 p s
  | .setab p => Sys2Proof.Machine.execSetab p s
  | .disconnect p => Sys2Proof.Machine.execDisconnect p s
  | .stop p => Sys2Proof.Machine.execStop p s
  | .rsvd id p => Sys2Proof.Machine.execRsvd id p s
  | .response velocity1 velocity2 count1 count2 => Sys2Proof.Machine.execResponse velocity1 velocity2 count1 count2 s

end Machine
end Sys2Proof
end

