-- ==== Sys2Proof/Machine/Receive.lean ====
section
/-! DEFINITION. The foreground task's step (spec/41_protocol_engine.md rule R150), and placing a telegram where the next
step completes it. -/

namespace Sys2Proof
namespace Machine
namespace State

/-- R65, R95: the telegram in the buffer, at the moment it is complete. -/
def fetchTelegram (s : State) : Instr := decodeBuffer s.connected s.rxBuf

/-- What follows the processing of a telegram in the same atomic step (R150): `rx_len <- 0`. -/
def afterTelegram (o : Host.Outcome State Fault Refusal) : Host.Outcome State Fault Refusal :=
  match o with
  | .next t => .next t.rxDone
  | .fault r => .fault r
  | .refused r => .refused r

/-- R150: `RxByte(b)`: the byte is buffered, and the telegram it completes is processed in the same atomic step. -/
def rxByte (b : Byte) (s : State) : Host.Outcome State Fault Refusal :=
  if Config.lenOperation ≤ s.rxLen then .fault .rxOverrun
  else if s.rxLen + 1 = s.need then afterTelegram (exec (s.rxPut b).fetchTelegram (s.rxPut b))
  else .next (s.rxPut b)

/-- Received telegrams: the mode that selects the format, all bytes of the telegram but the last in the buffer, and the
last one the next arrival. -/
def withReceived (connected : Bool) (bytes : List Byte) (s : State) : State :=
  { s with
    connected := connected,
    rxBuf := #v[bytes.getD 0 0#8, bytes.getD 1 0#8, bytes.getD 2 0#8, bytes.getD 3 0#8, bytes.getD 4 0#8,
      bytes.getD 5 0#8, bytes.getD 6 0#8, bytes.getD 7 0#8, bytes.getD 8 0#8, bytes.getD 9 0#8, bytes.getD 10 0#8,
      bytes.getD 11 0#8, bytes.getD 12 0#8, 0#8],
    rxLen := bytes.length - 1,
    arrivals := .rxByte (bytes.getD (bytes.length - 1) 0#8) :: s.arrivals }

/-- The RESPONSE telegram of these bytes is due at the next step: the block is `Connected`, a RESPONSE is owed, the next
arrival is a slow tick, and the fields of the telegram are what the two records hold (log entry 13). -/
def withResponseDue (bytes : List Byte) (s : State) : State :=
  { s with
    enc1 := { s.enc1 with
      velocityMps := f64OfF32 (le32 (bytes.getD 0 0#8) (bytes.getD 1 0#8) (bytes.getD 2 0#8) (bytes.getD 3 0#8)),
      pulseCount := le16 (bytes.getD 8 0#8) (bytes.getD 9 0#8) },
    enc2 := { s.enc2 with
      velocityMps := f64OfF32 (le32 (bytes.getD 4 0#8) (bytes.getD 5 0#8) (bytes.getD 6 0#8) (bytes.getD 7 0#8)),
      pulseCount := le16 (bytes.getD 10 0#8) (bytes.getD 11 0#8) },
    connected := true, handshakePending := true,
    slowTicksElapsed := s.params.slowPeriodTicks - 1,
    arrivals := .tick :: s.arrivals }

end State
end Machine
end Sys2Proof
end

