-- ==== Sys2Proof/Machine/Scheduler.lean ====
section
/-! DEFINITION. The Scheduler (spec/42_scheduler.md): `on_tick`, the block's one interrupt. It saves nothing, masks
nothing and restores nothing (R217, R218). -/

namespace Sys2Proof
namespace Machine
namespace State

/-- R191: a slow tick is the one at which `slow_ticks_elapsed = SLOW_PERIOD_TICKS - 1`; SLOW_PERIOD_TICKS is at least 1
(R9), so the test is written with the 1 on the other side. -/
def slowTickDue (s : State) : Bool := decide (s.slowTicksElapsed + 1 = s.params.slowPeriodTicks)

/-- R190 step 1: on a slow tick `send_response()`, both counts cleared, the counter restarted; else the counter counts. -/
def slowPart (s : State) : State :=
  if s.slowTickDue then
    ((s.sendResponse.onEnc .one Encoder.clearCount).onEnc .two Encoder.clearCount).withSlowTicks 0
  else s.withSlowTicks (s.slowTicksElapsed + 1)

/-- R192: `update(enc[i], DT)`. -/
def updateAxle (i : Axle) (s : State) : State := s.onEnc i (Encoder.update s.params.dt)

/-- R123: `emulate(enc[i], sink)`: the two levels are computed, written to the sink, and fed to the decoder. -/
def emulateAxle (i : Axle) (s : State) : State :=
  let a := (s.enc i).levelA
  let b := (s.enc i).levelB
  ((s.sinkWrite i .a a).sinkWrite i .b b).onEnc i (Encoder.decode a b)

/-- R190 step 2, R192: both updates, then both emulations, only when connected. -/
def fastPart (s : State) : State :=
  if s.connected then (((s.updateAxle .one).updateAxle .two).emulateAxle .one).emulateAxle .two else s

/-- R190: `on_tick()`, the `Tick` step. -/
def onTick (s : State) : State := s.slowPart.fastPart

end State
end Machine
end Sys2Proof
end

