-- ==== Sys2Proof/Machine/Step.lean ====
section
/-! DEFINITION. The step (spec/00_scope.md rule R16): the next arrival decides which agent moves; one step is one whole
`RxByte` or one whole `Tick` (R70). -/

namespace Sys2Proof
namespace Machine

/-- R16, R70: one atomic step. A halted block has none (R47). With no arrival supplied the foreground task waits and the
tick source fires (R62). -/
def step (s : State) : Host.Outcome State Fault Refusal :=
  if s.halted then .fault .halted
  else
    match s.arrivals with
    | [] => .next s.onTick
    | .tick :: rest => .next (s.withArrivals rest).onTick
    | .rxByte b :: rest => (s.withArrivals rest).rxByte b

/-- The state in which the very next step runs the telegram of a table word (log entry 13). -/
def State.withFetchWord (s : State) (nbits w : Nat) : State :=
  match tableFormat nbits with
  | .connect => s.withReceived false (tableBytes nbits w)
  | .operation => s.withReceived true (tableBytes nbits w)
  | .response => s.withResponseDue (tableBytes nbits w)

end Machine
end Sys2Proof
end

