-- ==== Sys2Proof/Safety.lean ====
section
/-! DEFINITION. What a safe run is, and the invariant that every step keeps (spec/10_state.md rules R21 to R31, R42,
R43; spec/20_memory.md rule R68; spec/60_exceptions.md rule R220; spec/70_reset_and_hazards.md rules R255, R257). -/

namespace Sys2Proof

/-- R13: `x` is the exact value `± n / d` (in units of 2^-1074) rounded to nearest, ties to even: no finite magnitude is
nearer, one that is as near leaves an even significand chosen, and from half-way past the largest finite value on, and only
from there on, it is the infinity of the sign. -/
def F64.NearestEven (x : F64) (neg : Bool) (n d : Nat) : Prop :=
  x ≠ .nan ∧ x.signBit = neg ∧ (x = .inf neg ↔ d * (2 ^ 2098 - 2 ^ 2044) ≤ n) ∧
  ∀ (s : Bool) (e : Fin 2047) (f : Fin (2 ^ 52)), x = .fin s e f → ∀ c : F64, c.isFinite = true →
    ((d * x.mag : Int) - n).natAbs ≤ ((d * c.mag : Int) - n).natAbs ∧
    (c.mag ≠ x.mag → ((d * x.mag : Int) - n).natAbs = ((d * c.mag : Int) - n).natAbs → f.val % 2 = 0)

namespace Machine

/-- R21, R23 to R26, R255: the fields of an Encoder no command but CONNECT and DISCONNECT writes are what they can be,
and the stored step length is the one of the stored diameter and `ppr`. -/
structure Encoder.Configured (e : Encoder) : Prop where
  dutyA : e.dutyA = Config.defaultDuty
  dutyB : e.dutyB = Config.defaultDuty
  phase : e.phaseDeg = Config.defaultPhase
  ppr : 80 ≤ e.ppr.toNat ∧ e.ppr.toNat ≤ 128
  diameter : F64.le Config.diameterMin e.wheelDiameterM = true ∧ F64.le e.wheelDiameterM Config.diameterMax = true
  stepLength : e.stepLengthM = Encoder.stepLengthOf e.wheelDiameterM e.ppr

/-- R220: an Encoder at its reset defaults: resetting it changes nothing. -/
def Encoder.AtDefaults (e : Encoder) : Prop := e.reset = e

/-- R123, R125: an Encoder that has left `Unknown` remembers the levels its outputs were last driven to. -/
def Encoder.Tracks (e : Encoder) (l : Levels) : Prop :=
  e.quadratureState = .unknown ∨ e.quadratureState = Encoder.mapped l.a l.b

/-- The invariant: what holds of every state a run reaches. -/
structure State.Inv (s : State) : Prop where
  /-- R42, R95: the telegram being received is not complete. -/
  rxLen : s.rxLen < s.need
  /-- R43, R193. -/
  slowTicks : s.slowTicksElapsed < s.params.slowPeriodTicks
  enc1 : s.enc1.Configured
  enc2 : s.enc2.Configured
  /-- R25: both Encoders hold one diameter. -/
  oneDiameter : s.enc1.wheelDiameterM = s.enc2.wheelDiameterM
  /-- R220: while `Disconnected` both Encoders are at their defaults. -/
  atDefaults : s.connected = false → s.enc1.AtDefaults ∧ s.enc2.AtDefaults
  /-- R257: at most one count per tick and axle since the last slow tick. -/
  counts : s.enc1.pulseCount.toNat ≤ s.slowTicksElapsed + 1 ∧ s.enc2.pulseCount.toNat ≤ s.slowTicksElapsed + 1
  tracks1 : s.enc1.Tracks s.out1
  tracks2 : s.enc2.Tracks s.out2
  /-- R68: what was sent is whole RESPONSE telegrams. -/
  txWhole : s.tx.length % 13 = 0

/-- R16: a state some run reaches from `s`. -/
inductive Reaches (s : State) : State → Prop where
  | start : Reaches s s
  | next {t u : State} : Reaches s t → step t = .next u → Reaches s u

/-- R62, R71: the next step is a `Tick`: the schedule says so, or the host has supplied nothing. -/
def State.TickNext (s : State) : Prop := s.halted = false ∧ (s.arrivals = [] ∨ s.arrivals.head? = some .tick)

/-- R62, R150: the next step is `RxByte(b)`, with `rx_len` in the range R42 gives it. -/
def State.ByteNext (s : State) (b : Byte) (rest : List Event) : Prop :=
  s.halted = false ∧ s.arrivals = .rxByte b :: rest ∧ s.rxLen < 14

/-- R191: the tick that comes is a slow tick. -/
def State.SlowDue (s : State) : Prop := s.slowTicksElapsed = s.params.slowPeriodTicks - 1

/-- R20: two states that agree on all that one axle's behaviour can depend on; the other axle's record and outputs, and
what was sent, may differ. -/
structure AgreeOnAxle (i : Axle) (s t : State) : Prop where
  enc : s.enc i = t.enc i
  out : s.out i = t.out i
  connected : s.connected = t.connected
  handshakePending : s.handshakePending = t.handshakePending
  rxBuf : s.rxBuf = t.rxBuf
  rxLen : s.rxLen = t.rxLen
  slowTicks : s.slowTicksElapsed = t.slowTicksElapsed
  halted : s.halted = t.halted
  params : s.params = t.params
  arrivals : s.arrivals = t.arrivals

/-- R210, R214: the block has a next step. -/
def State.CanStep (s : State) : Prop := ∃ t, step s = .next t

end Machine
end Sys2Proof
end

