-- ==== Sys2Proof/Certificates/Slice0/Obligations.lean ====
section
/-! DEFINITION. The statements for the provers. Each docstring says which rule of the spec it formalises. -/

open Sys2Proof Sys2Proof.Machine

/-! ### Encoding (spec/30_encoding.md) -/

/-- R90 to R96: no bit of an encoding is dropped and no two telegrams of a format share an encoding. -/
def Obligations.DecodeOfEncodeIsIdentity : Prop :=
  ∀ i : Instr, i.wellFormed = true → decode i.format (encode i) = .ok i

/-- R90 to R96: bytes that decode are the encoding of what they decode to, which is a well-formed telegram of the format. -/
def Obligations.EncodeOfDecodeIsIdentity : Prop :=
  ∀ (f : Format) (bs : List Byte) (i : Instr), decode f bs = .ok i →
    encode i = bs ∧ i.format = f ∧ i.wellFormed = true

/-- R94, R99, R90: every 8 bytes are a CONNECT and every 14 bytes an OPERATION; any other length is refused by name. -/
def Obligations.ReceivedBytesAlwaysDecode : Prop :=
  ∀ bs : List Byte,
    ((∃ i, decode .connect bs = .ok i) ↔ bs.length = 8) ∧
    ((∃ i, decode .operation bs = .ok i) ↔ bs.length = 14) ∧
    (bs.length ≠ 8 → decode .connect bs = .error (.wrongLength .connect bs.length)) ∧
    (bs.length ≠ 14 → decode .operation bs = .error (.wrongLength .operation bs.length))

/-- R96: byte 8 alone selects the OPERATION telegram; each of the ids 0x00 to 0x08 has its own, every other id is RSVD. -/
def Obligations.CommandIdSelectsTelegram : Prop :=
  ∀ (b0 b1 b2 b3 b4 b5 b6 b7 id r9 r10 r11 r12 r13 : Byte) (p : Payload),
    p = ⟨b3 ++ b2 ++ b1 ++ b0, b7 ++ b6 ++ b5 ++ b4, r9, r10, r11, r12, r13⟩ →
    decode .operation [b0, b1, b2, b3, b4, b5, b6, b7, id, r9, r10, r11, r12, r13] =
      .ok (if id = 0x00#8 then .nop p else if id = 0x01#8 then .setv1 p else if id = 0x02#8 then .setv2 p
        else if id = 0x03#8 then .setvb p else if id = 0x04#8 then .seta1 p else if id = 0x05#8 then .seta2 p
        else if id = 0x06#8 then .setab p else if id = 0x07#8 then .disconnect p else if id = 0x08#8 then .stop p
        else .rsvd id p)

/-- Words the spec writes out: V5 (a CONNECT), R157's example (SETVB 5.0, -3.0), R161's (DISCONNECT), R163's (id 0xFF) and
V8 (a RESPONSE). -/
def Obligations.SpecWordsDecode : Prop :=
  decode .connect [0x00#8, 0x00#8, 0xA0#8, 0x3F#8, 0x50#8, 0x00#8, 0x80#8, 0x00#8] =
    .ok (.connect 0x3FA00000#32 80#16 128#16) ∧
  decode .operation [0x00#8, 0x00#8, 0xA0#8, 0x40#8, 0x00#8, 0x00#8, 0x40#8, 0xC0#8, 0x03#8, 0#8, 0#8, 0#8, 0#8, 0#8] =
    .ok (.setvb ⟨0x40A00000#32, 0xC0400000#32, 0#8, 0#8, 0#8, 0#8, 0#8⟩) ∧
  decode .operation [0#8, 0#8, 0#8, 0#8, 0#8, 0#8, 0#8, 0#8, 0x07#8, 0#8, 0#8, 0#8, 0#8, 0#8] =
    .ok (.disconnect ⟨0#32, 0#32, 0#8, 0#8, 0#8, 0#8, 0#8⟩) ∧
  decode .operation [0#8, 0#8, 0#8, 0#8, 0#8, 0#8, 0#8, 0#8, 0xFF#8, 0#8, 0#8, 0#8, 0#8, 0#8] =
    .ok (.rsvd 0xFF#8 ⟨0#32, 0#32, 0#8, 0#8, 0#8, 0#8, 0#8⟩) ∧
  decode .response [0x00#8, 0x00#8, 0xA0#8, 0x40#8, 0x00#8, 0x00#8, 0x40#8, 0xC0#8, 7#8, 0#8, 0#8, 0#8, 0xDA#8] =
    .ok (.response 0x40A00000#32 0xC0400000#32 7#16 0#16)

/-! ### The step (spec/00_scope.md R16, spec/41_protocol_engine.md R150) -/

/-- R150: the byte is buffered and counted; when it completes the telegram of the mode's length, the telegram those
bytes decode to is executed in the same step and `rx_len` returns to 0; else nothing else happens. `rx_buf` and `rx_len`
are the spec's decision D9. That the buffer's bytes stay after the telegram is the model's choice (log entry 17). -/
def Obligations.RxByteBuffersAndRunsCompleteTelegram : Prop :=
  ∀ (s : State) (b : Byte) (rest : List Event), s.ByteNext b rest →
    (s.rxLen + 1 = (if s.connected then 14 else 8) →
      ∃ i t, decode (if s.connected then .operation else .connect) (s.rxBuf.toList.take s.rxLen ++ [b]) = .ok i ∧
        i.wellFormed = true ∧
        exec i { s with rxBuf := s.rxBuf.setIfInBounds s.rxLen b, rxLen := s.rxLen + 1, arrivals := rest } = .next t ∧
        step s = .next { t with rxLen := 0 }) ∧
    (s.rxLen + 1 ≠ (if s.connected then 14 else 8) →
      step s =
        .next { s with rxBuf := s.rxBuf.setIfInBounds s.rxLen b, rxLen := s.rxLen + 1, arrivals := rest })

/-- R47, R214: `halted` is the failure of INIT_OK at reset, nothing clears or sets it later, and a halted block has no
step. `halted` is the spec's decision D19. -/
def Obligations.HaltedBlockHasNoStep : Prop :=
  (∀ s : State, s.halted = true → step s = .fault .halted) ∧
  (∀ (ok : Bool) (p : Params), (State.resetWith ok p).halted = !ok) ∧
  (∀ s t : State, step s = .next t → s.halted = false ∧ t.halted = false)

/-- R210: no error of the block stops it. From a state the invariant allows, a block that is not halted has a next step. -/
def Obligations.NothingTrapsFromInvariant : Prop :=
  ∀ s : State, s.Inv → s.halted = false → s.CanStep

/-! ### CONNECT (spec/41_protocol_engine.md R151, R152, R167) -/

/-- R151, R211: a CONNECT whose three fields are all in range configures both Encoders and enters `Connected`; any other
writes no field but `handshake_pending`. Every other field keeps its value. -/
def Obligations.ConnectConfiguresOrWritesOnlyHandshake : Prop :=
  ∀ (w : Word32) (p1 p2 : Half) (s : State),
    let d := f64OfF32 w
    let valid := F64.le Config.diameterMin d = true ∧ F64.le d Config.diameterMax = true ∧
      (80 ≤ p1.toNat ∧ p1.toNat ≤ 128) ∧ (80 ≤ p2.toNat ∧ p2.toNat ≤ 128)
    (valid → exec (.connect w p1 p2) s =
      .next { s with
        enc1 := { s.enc1 with
          wheelDiameterM := d, ppr := p1,
          stepLengthM := F64.div (F64.mul d Config.pi) (F64.ofNat (2 * p1.toNat)) },
        enc2 := { s.enc2 with
          wheelDiameterM := d, ppr := p2,
          stepLengthM := F64.div (F64.mul d Config.pi) (F64.ofNat (2 * p2.toNat)) },
        connected := true, handshakePending := true }) ∧
    (¬ valid → exec (.connect w p1 p2) s = .next { s with handshakePending := true })

/-- R152: the accepted CONNECTs are exactly those whose diameter pattern is 0x3F4CCCCD to 0x3FA00000 and whose two `ppr`
fields are 80 to 128. The pattern set is the inference R152 (b) marks as the spec's own. -/
def Obligations.AcceptedConnectPatterns : Prop :=
  ∀ (w : Word32) (p1 p2 : Half),
    validConnect (f64OfF32 w) p1 p2 = true ↔
      (0x3F4CCCCD ≤ w.toNat ∧ w.toNat ≤ 0x3FA00000) ∧ (80 ≤ p1.toNat ∧ p1.toNat ≤ 128) ∧
        (80 ≤ p2.toNat ∧ p2.toNat ≤ 128)

/-- R167, R95: of 14 bytes sent to a `Disconnected` block, the first 8 are tried as a CONNECT and the last 6 begin the
next telegram, whether or not the CONNECT is accepted. R167 is marked as the spec's own inference. -/
def Obligations.FourteenBytesWhileDisconnectedAreMisframed : Prop :=
  ∀ (s : State) (bs : List Byte) (rest : List Event) (w : Word32) (p1 p2 : Half),
    s.halted = false → s.connected = false → s.rxLen = 0 → bs.length = 14 →
    s.arrivals = bs.map .rxByte ++ rest → decode .connect (bs.take 8) = .ok (.connect w p1 p2) →
    ∃ t : State, Sys2Proof.core.run 14 s = .next t ∧ t.connected = validConnect (f64OfF32 w) p1 p2 ∧
      (t.connected = false → t.enc1 = s.enc1 ∧ t.enc2 = s.enc2) ∧
      t.handshakePending = true ∧ t.rxLen = 6 ∧ t.rxBuf.toList.take 6 = bs.drop 8 ∧ t.tx = s.tx ∧ t.arrivals = rest

/-! ### OPERATION (spec/41_protocol_engine.md R153 to R163) -/

/-- R154, R163, R97: NOP and every reserved id set `handshake_pending` and change nothing else. -/
def Obligations.NopAndReservedOnlyRequestResponse : Prop :=
  ∀ (id : Byte) (p : Payload) (s : State),
    exec (.nop p) s = .next { s with handshakePending := true } ∧
    exec (.rsvd id p) s = .next { s with handshakePending := true } ∧
    (encode (.nop p))[8]? = some 0x00#8 ∧ (encode (.rsvd id p))[8]? = some id

/-- R155, R156, R157: a velocity command stores the exact image of its slot, unchecked, in its axle's velocity and changes
nothing else but `handshake_pending`. -/
def Obligations.VelocityCommandsWriteTheirAxle : Prop :=
  ∀ (p : Payload) (s : State),
    exec (.setv1 p) s =
      .next { s with enc1 := { s.enc1 with velocityMps := f64OfF32 p.valA }, handshakePending := true } ∧
    exec (.setv2 p) s =
      .next { s with enc2 := { s.enc2 with velocityMps := f64OfF32 p.valB }, handshakePending := true } ∧
    exec (.setvb p) s =
      .next { s with
        enc1 := { s.enc1 with velocityMps := f64OfF32 p.valA },
        enc2 := { s.enc2 with velocityMps := f64OfF32 p.valB }, handshakePending := true } ∧
    (encode (.setv1 p))[8]? = some 0x01#8 ∧ (encode (.setv2 p))[8]? = some 0x02#8 ∧ (encode (.setvb p))[8]? = some 0x03#8

/-- R158, R159, R160: the acceleration commands, as the velocity commands. SETAB's assignment of slots is the spec's
decision D27. -/
def Obligations.AccelerationCommandsWriteTheirAxle : Prop :=
  ∀ (p : Payload) (s : State),
    exec (.seta1 p) s =
      .next { s with enc1 := { s.enc1 with accelerationMps2 := f64OfF32 p.valA }, handshakePending := true } ∧
    exec (.seta2 p) s =
      .next { s with enc2 := { s.enc2 with accelerationMps2 := f64OfF32 p.valB }, handshakePending := true } ∧
    exec (.setab p) s =
      .next { s with
        enc1 := { s.enc1 with accelerationMps2 := f64OfF32 p.valA },
        enc2 := { s.enc2 with accelerationMps2 := f64OfF32 p.valB }, handshakePending := true } ∧
    (encode (.seta1 p))[8]? = some 0x04#8 ∧ (encode (.seta2 p))[8]? = some 0x05#8 ∧ (encode (.setab p))[8]? = some 0x06#8

/-- R161, R132: DISCONNECT leaves both Encoders at the defaults of R50 (step length PI / 256), the fault-injection
fields alone, and both flags clear; outputs, slow counter and all else are kept. The reset of the count and the step
length is the spec's decision D12. That the fault-injection fields are left alone, as R132 says and R22 and R50 leave
open, is the model's choice (log entry 9). -/
def Obligations.DisconnectResetsBothAxles : Prop :=
  ∀ (p : Payload) (s : State),
    let defaults := fun f : FaultInjection =>
      ({ dutyA := 50, dutyB := 50, faultInjection := f, phaseDeg := F64.ofNat 90, ppr := 128#16,
         wheelDiameterM := F64.ofNat 1, stepLengthM := .fin false 1016 0x921FB54442D18, posA := .fin false 0 0,
         posB := .fin false 0 0, velocityMps := .fin false 0 0, accelerationMps2 := .fin false 0 0, pulseCount := 0#16,
         quadratureState := .unknown } : Encoder)
    exec (.disconnect p) s =
      .next { s with
        enc1 := defaults s.enc1.faultInjection, enc2 := defaults s.enc2.faultInjection,
        connected := false, handshakePending := false } ∧
    (encode (.disconnect p))[8]? = some 0x07#8

/-- R162: STOP zeroes both velocities and accelerations at once, stays connected, and keeps everything else. -/
def Obligations.StopZeroesMotion : Prop :=
  ∀ (p : Payload) (s : State),
    exec (.stop p) s =
      .next { s with
        enc1 := { s.enc1 with velocityMps := .fin false 0 0, accelerationMps2 := .fin false 0 0 },
        enc2 := { s.enc2 with velocityMps := .fin false 0 0, accelerationMps2 := .fin false 0 0 },
        handshakePending := true } ∧
    (encode (.stop p))[8]? = some 0x08#8

/-- R164, R93: `send_response` does nothing unless `connected` and `handshake_pending`; else it appends the 13 bytes and
clears `handshake_pending`. A velocity that is not NaN is sent as its binary32; a NaN is sent as some NaN pattern, the
model's free value (log entry 8). That the term's four fields are not read is the model's choice too (log entry 10). -/
def Obligations.ResponseSendsThirteenBytes : Prop :=
  ∀ (v1 v2 : Word32) (c1 c2 : Half) (s : State),
    ((s.connected && s.handshakePending) = false → exec (.response v1 v2 c1 c2) s = .next s) ∧
    ((s.connected && s.handshakePending) = true →
      ∃ (w1 w2 : Word32) (draws : Nat),
        (∀ n : Word32, s.enc1.velocityMps ≠ .nan → w1 = f32OfF64 n s.enc1.velocityMps) ∧
        (∀ n : Word32, s.enc2.velocityMps ≠ .nan → w2 = f32OfF64 n s.enc2.velocityMps) ∧
        (s.enc1.velocityMps = .nan → f32IsNaN w1 = true) ∧ (s.enc2.velocityMps = .nan → f32IsNaN w2 = true) ∧
        exec (.response v1 v2 c1 c2) s =
          .next { s with
            tx := s.tx ++
              [w1.extractLsb' 0 8, w1.extractLsb' 8 8, w1.extractLsb' 16 8, w1.extractLsb' 24 8,
               w2.extractLsb' 0 8, w2.extractLsb' 8 8, w2.extractLsb' 16 8, w2.extractLsb' 24 8,
               s.enc1.pulseCount.extractLsb' 0 8, s.enc1.pulseCount.extractLsb' 8 8,
               s.enc2.pulseCount.extractLsb' 0 8, s.enc2.pulseCount.extractLsb' 8 8, 0xDA#8],
            handshakePending := false, nanDraws := draws })

/-- R20's "Written by" column, R40, R41, R43, R45, R46: what each telegram can write, field by field: no telegram writes
an output, the buffer or the slow counter; only DISCONNECT writes positions, counts, quadrature states, duties and
phases; only it and CONNECT write configuration and the mode; only it, STOP and an axle's own commands write its
velocity and its acceleration; DISCONNECT clears `handshake_pending`, RESPONSE clears it when it sends, every other
telegram sets it; only RESPONSE sends. That no telegram writes a fault-injection field is the model's choice (log entry
9). -/
def Obligations.TelegramsWriteOnlyTheirFields : Prop :=
  ∀ (i : Instr) (s t : State), exec i s = .next t →
    (t.out1 = s.out1 ∧ t.out2 = s.out2 ∧ t.rxBuf = s.rxBuf ∧ t.rxLen = s.rxLen ∧
      t.slowTicksElapsed = s.slowTicksElapsed ∧ t.halted = s.halted ∧ t.params = s.params ∧ t.arrivals = s.arrivals) ∧
    (i.format ≠ .response → t.tx = s.tx ∧ t.nanDraws = s.nanDraws ∧
      ((∀ p, i ≠ .disconnect p) → t.handshakePending = true) ∧
      ((∃ p, i = .disconnect p) → t.handshakePending = false ∧ t.connected = false)) ∧
    (i.format = .response → t.enc1 = s.enc1 ∧ t.enc2 = s.enc2 ∧ t.connected = s.connected ∧
      t.handshakePending = (s.handshakePending && !s.connected)) ∧
    (i.format = .connect → s.connected = true → t.connected = true) ∧
    ∀ a : Axle,
      (t.enc a).faultInjection = (s.enc a).faultInjection ∧
      ((∀ p, i ≠ .disconnect p) →
        (t.enc a).dutyA = (s.enc a).dutyA ∧ (t.enc a).dutyB = (s.enc a).dutyB ∧
        (t.enc a).phaseDeg = (s.enc a).phaseDeg ∧ (t.enc a).posA = (s.enc a).posA ∧ (t.enc a).posB = (s.enc a).posB ∧
        (t.enc a).pulseCount = (s.enc a).pulseCount ∧ (t.enc a).quadratureState = (s.enc a).quadratureState) ∧
      ((∀ p, i ≠ .disconnect p) → i.format ≠ .connect →
        (t.enc a).ppr = (s.enc a).ppr ∧ (t.enc a).wheelDiameterM = (s.enc a).wheelDiameterM ∧
        (t.enc a).stepLengthM = (s.enc a).stepLengthM ∧ t.connected = s.connected) ∧
      ((∀ p, i ≠ .disconnect p ∧ i ≠ .stop p ∧ i ≠ .setvb p ∧ (a = .one → i ≠ .setv1 p) ∧ (a = .two → i ≠ .setv2 p)) →
        (t.enc a).velocityMps = (s.enc a).velocityMps) ∧
      ((∀ p, i ≠ .disconnect p ∧ i ≠ .stop p ∧ i ≠ .setab p ∧ (a = .one → i ≠ .seta1 p) ∧ (a = .two → i ≠ .seta2 p)) →
        (t.enc a).accelerationMps2 = (s.enc a).accelerationMps2)

/-! ### The Encoder Model (spec/40_encoder_model.md) -/

/-- R120: the integrator, every step of the rule written out: the new saturated velocity moves the position, B is
overwritten from A, and both positions move by at most one period together. The order of the comparisons is the spec's
decisions D5 and D17, the bound's literal D4. -/
def Obligations.UpdateIntegratesSaturatesWraps : Prop :=
  ∀ (dt : F64) (e : Encoder),
    let v0 := F64.add e.velocityMps (F64.mul e.accelerationMps2 dt)
    let v := if F64.lt Config.velocityMax v0 then Config.velocityMax
      else if F64.lt v0 (F64.neg Config.velocityMax) then F64.neg Config.velocityMax else v0
    let a := F64.add e.posA (F64.mul v dt)
    let k := F64.div (F64.neg e.phaseDeg) (F64.ofNat 360)
    let l := F64.mul (F64.ofNat 2) e.stepLengthM
    let b := F64.add a (F64.mul l k)
    let lesser := if F64.lt b a then b else a
    let greater := if F64.lt a b then b else a
    e.update dt =
      if F64.le lesser (F64.neg l) then { e with velocityMps := v, posA := F64.add a l, posB := F64.add b l }
      else if F64.le l greater then { e with velocityMps := v, posA := F64.sub a l, posB := F64.sub b l }
      else { e with velocityMps := v, posA := a, posB := b }

/-- R126: after every update the velocity is within the bound unless it is NaN, and the acceleration is left as it is.
R126 is marked as the spec's own inference; the bound's literal is its decision D4. -/
def Obligations.UpdateSaturatesVelocity : Prop :=
  ∀ (dt : F64) (e : Encoder),
    ((e.update dt).velocityMps = .nan ∨
      (F64.le (F64.neg Config.velocityMax) (e.update dt).velocityMps = true ∧
        F64.le (e.update dt).velocityMps Config.velocityMax = true)) ∧
    (e.update dt).accelerationMps2 = e.accelerationMps2

/-- R254, R120 corner case (c): a NaN velocity, acceleration or position makes both positions NaN at the next update,
and with NaN positions both channels read low whatever the duty. `clamp` of a NaN is the spec's decision D5, the low
level D16. -/
def Obligations.NaNDrivesAxleLow : Prop :=
  ∀ (dt : F64) (e : Encoder),
    (e.velocityMps = .nan ∨ e.accelerationMps2 = .nan → (e.update dt).velocityMps = .nan) ∧
    (e.velocityMps = .nan ∨ e.accelerationMps2 = .nan ∨ e.posA = .nan →
      (e.update dt).posA = .nan ∧ (e.update dt).posB = .nan ∧ (e.update dt).levelA = false ∧
        (e.update dt).levelB = false)

/-- R133, R124 corner case (e): with `s` the step length of any Encoder a run can hold (the defaults, or what an
accepted CONNECT leaves), both its channels are high exactly on `[-2s, -s)` and `[0, s)` of their own position; outside
`[-2s, 2s)` and for NaN they are low (the spec's decision D16, log entry 16). R133 is marked as the spec's own
inference. -/
def Obligations.DefaultChannelWaveform : Prop :=
  ∀ e : Encoder, e.Configured →
    let s := e.stepLengthM
    let high := fun pos : F64 =>
      (F64.le (F64.neg (F64.mul (F64.ofNat 2) s)) pos && F64.lt pos (F64.neg s)) ||
        (F64.le (.fin false 0 0) pos && F64.lt pos s)
    e.levelA = high e.posA ∧ e.levelB = high e.posB ∧ ∀ pos : F64, Encoder.level e pos 50 = high pos

/-- R124 corner case (b): with duty 0 a channel is always low, whatever the step length and the position. Outside `[-2s,
2s)` and at NaN low is the spec's decision D16 (log entry 16). -/
def Obligations.DutyZeroIsAlwaysLow : Prop :=
  ∀ (e : Encoder) (pos : F64), Encoder.level e pos 0 = false

/-- R125: every change of state counts exactly 1 modulo 65536, except the first out of `Unknown`; no change counts nothing;
no other field is written. -/
def Obligations.DecodeCountsEveryChange : Prop :=
  ∀ (a b : Bool) (e : Encoder),
    let m : QState := if a then (if b then .s11 else .s10) else (if b then .s01 else .s00)
    (m = e.quadratureState → e.decode a b = e) ∧
    (m ≠ e.quadratureState → e.quadratureState = .unknown → e.decode a b = { e with quadratureState := m }) ∧
    (m ≠ e.quadratureState → e.quadratureState ≠ .unknown →
      ∃ c : Half, e.decode a b = { e with quadratureState := m, pulseCount := c } ∧
        c.toNat = (e.pulseCount.toNat + 1) % 65536)

/-- R31 item 1: for every diameter and `ppr` a CONNECT can leave, the step length is a finite number above zero. -/
def Obligations.StepLengthIsPositive : Prop :=
  ∀ (d : F64) (p : Half), F64.le Config.diameterMin d = true → F64.le d Config.diameterMax = true →
    80 ≤ p.toNat → p.toNat ≤ 128 →
    (Encoder.stepLengthOf d p).isFinite = true ∧ F64.lt F64.zero (Encoder.stepLengthOf d p) = true

/-- R120, against R122 read literally: R122's premise (`-L < pos_a < L`, `|velocity × DT| <= L`, phase 90) does not keep
`pos_b` in `(-L, L)`: there is a record that meets it and whose `pos_b` is below `-L` after one update.
UpdateKeepsPositionsInRange is the positive half. -/
def Obligations.RangePremiseAloneDoesNotBoundPosB : Prop :=
  ∃ (dt : F64) (e : Encoder),
    let l := F64.mul (F64.ofNat 2) e.stepLengthM
    F64.lt F64.zero e.stepLengthM = true ∧ e.phaseDeg = F64.ofNat 90 ∧
    F64.lt (F64.neg l) e.posA = true ∧ F64.lt e.posA l = true ∧
    F64.le (F64.neg l) (F64.mul (e.update dt).velocityMps dt) = true ∧
    F64.le (F64.mul (e.update dt).velocityMps dt) l = true ∧
    F64.lt (e.update dt).posB (F64.neg l) = true

/-! ### The Scheduler (spec/42_scheduler.md) -/

/-- R190, R191, R192: one connected tick: on a slow tick the owed RESPONSE is sent, both counts cleared and the counter
restarted; then both axles are updated and emulated; nothing else changes. -/
def Obligations.ConnectedTickAdvancesBothAxles : Prop :=
  ∀ s : State, s.TickNext → s.connected = true →
    ∃ t : State, step s = .next t ∧
      (∀ a : Axle, ∃ u : Encoder,
        (s.SlowDue → u = Encoder.update s.params.dt { s.enc a with pulseCount := 0#16 }) ∧
        (¬ s.SlowDue → u = Encoder.update s.params.dt (s.enc a)) ∧
        t.out a = ⟨Encoder.level u u.posA u.dutyA, Encoder.level u u.posB u.dutyB⟩ ∧
        t.enc a = u.decode (t.out a).a (t.out a).b) ∧
      (s.SlowDue → t.slowTicksElapsed = 0) ∧ (¬ s.SlowDue → t.slowTicksElapsed = s.slowTicksElapsed + 1) ∧
      (s.SlowDue → s.handshakePending = true →
        t.tx = s.tx ++ encode s.responseTelegram ∧ t.handshakePending = false) ∧
      (¬ (s.SlowDue ∧ s.handshakePending = true) →
        t.tx = s.tx ∧ t.handshakePending = s.handshakePending ∧ t.nanDraws = s.nanDraws) ∧
      t.connected = true ∧ t.rxBuf = s.rxBuf ∧ t.rxLen = s.rxLen ∧ t.halted = s.halted ∧ t.params = s.params ∧
      t.arrivals = s.arrivals.tail

/-- R191, R164: the telegram a slow tick sends, its flag write and its NaN draws are those of `exec` on the RESPONSE of
the state the tick starts in. That this is `exec` of a RESPONSE term is the model's choice (log entry 10), and so is the
NaN counter (log entry 8). -/
def Obligations.SlowTickRunsResponse : Prop :=
  ∀ s : State, s.TickNext → s.SlowDue →
    ∃ t u : State, exec s.responseTelegram { s with arrivals := s.arrivals.tail } = .next u ∧ step s = .next t ∧
      t.tx = u.tx ∧ t.handshakePending = u.handshakePending ∧ t.connected = u.connected ∧ t.nanDraws = u.nanDraws

/-- R192, R191: while `Disconnected` a tick moves nothing, drives nothing and sends nothing: it runs the slow counter and, on
a slow tick, clears the counts. -/
def Obligations.DisconnectedTickMovesNothing : Prop :=
  ∀ s : State, s.TickNext → s.connected = false →
    (s.SlowDue → step s =
      .next { s with
        enc1 := { s.enc1 with pulseCount := 0#16 }, enc2 := { s.enc2 with pulseCount := 0#16 },
        slowTicksElapsed := 0, arrivals := s.arrivals.tail }) ∧
    (¬ s.SlowDue → step s =
      .next { s with slowTicksElapsed := s.slowTicksElapsed + 1, arrivals := s.arrivals.tail })

/-- R193, R43: `slow_ticks_elapsed` counts ticks modulo SLOW_PERIOD_TICKS and nothing but a tick writes it. R193 is
marked as the spec's own inference. -/
def Obligations.SlowCounterCountsTicksCyclically : Prop :=
  ∀ s t : State, step s = .next t → s.slowTicksElapsed < s.params.slowPeriodTicks →
    (s.TickNext → t.slowTicksElapsed = (s.slowTicksElapsed + 1) % s.params.slowPeriodTicks) ∧
    (¬ s.TickNext → t.slowTicksElapsed = s.slowTicksElapsed)

/-- R191, R192: after a slow tick each count is 0 or 1 (what step 2 of that very tick counted), whether or not a RESPONSE
was sent, and 0 while `Disconnected`. -/
def Obligations.SlowTickClearsCounts : Prop :=
  ∀ (s : State) (a : Axle), s.TickNext → s.SlowDue →
    ∃ t : State, step s = .next t ∧ (t.enc a).pulseCount.toNat ≤ 1 ∧
      (s.connected = false → (t.enc a).pulseCount = 0#16)

/-- R165 (1), (2), R68: a step sends nothing, or it is a slow tick of a `Connected` block that owes a RESPONSE and sends
exactly 13 bytes ending in 0xDA, after which none is owed. R165 is marked as the spec's own inference. -/
def Obligations.OnlySlowTicksSend : Prop :=
  ∀ s t : State, step s = .next t →
    t.tx = s.tx ∨
    (s.TickNext ∧ s.SlowDue ∧ s.connected = true ∧ s.handshakePending = true ∧ t.handshakePending = false ∧
      ∃ bs : List Byte, bs.length = 12 ∧ t.tx = s.tx ++ bs ++ [0xDA#8])

/-- R165 (4): with no further bytes from the host, an owed RESPONSE is sent by the slow tick, which comes after
`SLOW_PERIOD_TICKS - slow_ticks_elapsed` ticks, and nothing is sent before it. R165 is marked as the spec's own
inference; `arrivals = []` meaning that ticks come is the model's (log entry 3). -/
def Obligations.OwedResponseComesWithinSlowPeriod : Prop :=
  ∀ s : State, s.halted = false → s.arrivals = [] → s.connected = true → s.handshakePending = true →
    s.slowTicksElapsed < s.params.slowPeriodTicks →
    (∃ (t : State) (bs : List Byte), Sys2Proof.core.run (s.params.slowPeriodTicks - s.slowTicksElapsed) s = .next t ∧
      t.tx = s.tx ++ bs ∧ bs.length = 13 ∧ t.handshakePending = false) ∧
    (∀ k : Nat, k < s.params.slowPeriodTicks - s.slowTicksElapsed →
      ∃ u : State, Sys2Proof.core.run k s = .next u ∧ u.tx = s.tx ∧ u.handshakePending = true)

/-- R213, R71: a byte that does not complete a telegram and a tick can come in either order with the same result, so a
telegram split by ticks acts at its last byte. -/
def Obligations.TicksCommuteWithIncompleteBytes : Prop :=
  ∀ (s : State) (b : Byte) (rest : List Event), s.halted = false → s.rxLen < 14 →
    s.rxLen + 1 ≠ (if s.connected then 14 else 8) →
    ∃ t : State,
      Sys2Proof.core.run 2 ({ s with arrivals := .tick :: .rxByte b :: rest } : State) = .next t ∧
      Sys2Proof.core.run 2 ({ s with arrivals := .rxByte b :: .tick :: rest } : State) = .next t

/-! ### Whole-machine rules -/

/-- R166: the transition table of `(connected, handshake_pending)`: reset, every complete telegram by its bytes, slow
and other ticks; no other event changes either flag. R166 is marked as the spec's own inference. -/
def Obligations.FlagTransitionsAreTheTable : Prop :=
  (∀ (ok : Bool) (p : Params),
    (State.resetWith ok p).connected = false ∧ (State.resetWith ok p).handshakePending = false) ∧
  ∀ s t : State, step s = .next t →
    (s.TickNext → t.connected = s.connected ∧
      (s.SlowDue → s.connected = true → t.handshakePending = false) ∧
      (¬ (s.SlowDue ∧ s.connected = true) → t.handshakePending = s.handshakePending)) ∧
    (∀ (b : Byte) (rest : List Event), s.ByteNext b rest →
      (s.rxLen + 1 ≠ (if s.connected then 14 else 8) →
        t.connected = s.connected ∧ t.handshakePending = s.handshakePending) ∧
      (s.connected = false → s.rxLen = 7 → t.handshakePending = true ∧
        ∃ w p1 p2, decode .connect (s.rxBuf.toList.take 7 ++ [b]) = .ok (.connect w p1 p2) ∧
          t.connected = validConnect (f64OfF32 w) p1 p2) ∧
      (s.connected = true → s.rxLen = 13 →
        t.connected = decide (s.rxBuf[8] ≠ 0x07#8) ∧ t.handshakePending = decide (s.rxBuf[8] ≠ 0x07#8)))

/-- The invariant (R21 to R31, R42, R43, R68, R95, R220, R255, R257) is kept by every step, from every state that has it. -/
def Obligations.EveryStepKeepsInvariant : Prop :=
  ∀ s t : State, s.Inv → step s = .next t → t.Inv

/-- The invariant holds after `Reset`, for every configuration and every sequence of arrivals. -/
def Obligations.ResetMeetsInvariant : Prop :=
  State.reset.Inv ∧ ∀ (p : Params) (es : List Event), ({ State.resetWith true p with arrivals := es } : State).Inv

/-- R70, R71, R210: whatever the tick period and whatever bytes come in whatever order among the ticks, every state a
run reaches has the invariant and a next step. Whole steps (R70) are the spec's decision D8 (log entry 2), the schedule
of arrivals is the model's (log entry 3). -/
def Obligations.EveryRunIsSafe : Prop :=
  ∀ (p : Params) (es : List Event) (t : State),
    Reaches ({ State.resetWith true p with arrivals := es } : State) t → t.Inv ∧ t.CanStep

/-- R17: no step writes the configuration. That no step writes a fault-injection field either is the model's choice (log
entry 9): R132 leaves them alone and R22 leaves open whether `reset` touches them. -/
def Obligations.ConfigurationNeverChanges : Prop :=
  ∀ s t : State, step s = .next t →
    t.params = s.params ∧ t.enc1.faultInjection = s.enc1.faultInjection ∧
      t.enc2.faultInjection = s.enc2.faultInjection

/-- R20: no operation on one Encoder reads or writes the other: states that differ only in the other axle (and in what was
sent) step alike as far as this axle is concerned. -/
def Obligations.AxlesAreIndependent : Prop :=
  ∀ (a : Axle) (s s' t : State), AgreeOnAxle a s s' → step s = .next t →
    ∃ t' : State, step s' = .next t' ∧ AgreeOnAxle a t t'

/-- R50, R240: the state after `Reset`, every field the spec gives a value, for every configuration. Of these values the
spec decides those of D9 to D12, D19 and D25. -/
def Obligations.ResetLeavesTheDefaults : Prop :=
  ∀ p : Params,
    let s := State.resetWith true p
    (∀ a : Axle,
      (s.enc a).dutyA = 50 ∧ (s.enc a).dutyB = 50 ∧ (s.enc a).phaseDeg = F64.ofNat 90 ∧ (s.enc a).ppr = 128#16 ∧
      (s.enc a).wheelDiameterM = F64.ofNat 1 ∧ (s.enc a).stepLengthM = .fin false 1016 0x921FB54442D18 ∧
      (s.enc a).posA = .fin false 0 0 ∧ (s.enc a).posB = .fin false 0 0 ∧ (s.enc a).velocityMps = .fin false 0 0 ∧
      (s.enc a).accelerationMps2 = .fin false 0 0 ∧ (s.enc a).pulseCount = 0#16 ∧
      (s.enc a).quadratureState = .unknown) ∧
    s.connected = false ∧ s.handshakePending = false ∧ s.slowTicksElapsed = 0 ∧ s.rxLen = 0 ∧ s.tx = [] ∧
    s.halted = false

/-! ### Numerics (spec/00_scope.md R13, R14) -/

/-- R14: widening is exact: a finite binary32 keeps its sign and its value (in units of 2^-149, which are 2^925 units of
2^-1074), an infinity stays one, a NaN stays a NaN. R14 is the spec's decision D6. -/
def Obligations.WideningIsExact : Prop :=
  ∀ w : Word32,
    (f32Exp w ≠ 255 → (f64OfF32 w).isFinite = true ∧ (f64OfF32 w).signBit = w.msb ∧
      (f64OfF32 w).mag = (if f32Exp w = 0 then f32Frac w else (2 ^ 23 + f32Frac w) * 2 ^ (f32Exp w - 1)) * 2 ^ 925) ∧
    (f32Exp w = 255 → f32Frac w = 0 → f64OfF32 w = .inf w.msb) ∧
    (f32Exp w = 255 → f32Frac w ≠ 0 → f64OfF32 w = .nan)

/-- R14: a value that came from a binary32 narrows back to it exactly, infinities and signed zeros included. R14 is the
spec's decision D6. -/
def Obligations.NarrowingInvertsWidening : Prop :=
  ∀ w n : Word32, f32IsNaN w = false → f32OfF64 n (f64OfF32 w) = w

/-- R13: rounding is to nearest, ties to even: no finite binary64 magnitude is nearer to `n / d`, one that is as near
leaves an even significand chosen, the sign is kept, and only from half-way past the largest finite value on is it the
infinity. R13 is the spec's decision D2. -/
def Obligations.RoundingIsToNearestTiesToEven : Prop :=
  ∀ (neg : Bool) (n d : Nat), 0 < d → (F64.round neg n d).NearestEven neg n d

/-- R14, U6: what may be sent for a NaN is a NaN pattern, and every NaN pattern may be. R14 is the spec's decision D6;
the free value is log entry 8's. -/
def Obligations.FreeNaNPatternsAreAllNaNs : Prop :=
  (∀ x : Bool × Fin 8388607, f32IsNaN (nanPatternOf x) = true) ∧
  (∀ w : Word32, f32IsNaN w = true → ∃ x : Bool × Fin 8388607, nanPatternOf x = w)

/-- R164 corner case (b), R258: the velocity of a SETV1, SETV2 or SETVB that no update has touched is reported bit for
bit, also beyond `VELOCITY_MAX`: encoder 1's in bytes 0 to 3 of the RESPONSE, encoder 2's in bytes 4 to 7. A slot that
is a NaN is left out: its pattern is free (log entry 8). -/
def Obligations.CommandedVelocityIsReportedExactly : Prop :=
  ∀ (p : Payload) (i : Instr) (s : State) (v1 v2 : Word32) (c1 c2 : Half), s.connected = true →
    (i = .setv1 p ∨ i = .setvb p → f32IsNaN p.valA = false →
      ∃ t u : State, exec i s = .next t ∧ exec (.response v1 v2 c1 c2) t = .next u ∧
        (u.tx.drop s.tx.length).take 4 =
          [p.valA.extractLsb' 0 8, p.valA.extractLsb' 8 8, p.valA.extractLsb' 16 8, p.valA.extractLsb' 24 8]) ∧
    (i = .setv2 p ∨ i = .setvb p → f32IsNaN p.valB = false →
      ∃ t u : State, exec i s = .next t ∧ exec (.response v1 v2 c1 c2) t = .next u ∧
        (u.tx.drop (s.tx.length + 4)).take 4 =
          [p.valB.extractLsb' 0 8, p.valB.extractLsb' 8 8, p.valB.extractLsb' 16 8, p.valB.extractLsb' 24 8])

/-! ### Beside O26 and O44 (R122; R13, R14) -/

/-- R122, R31 item 2, at phase 90 and with the premise R122's last sentence gives for it: from `-0.75 L < pos_a < L`, with
`|velocity × DT| <= L` for the saturated velocity, one update leaves both positions from `-L` to `L`. The bounds are not
strict: R122 allows equality through rounding at the last place. It holds for every step length from 2^-1000 to 2^1000 m,
which takes in every one a CONNECT can leave, and every tick period. R122 is marked as the spec's own inference. -/
def Obligations.UpdateKeepsPositionsInRange : Prop :=
  ∀ (dt : F64) (e : Encoder),
    let l := F64.mul (F64.ofNat 2) e.stepLengthM
    let u := e.update dt
    e.phaseDeg = F64.ofNat 90 →
    F64.le (.fin false 23 0) e.stepLengthM = true → F64.le e.stepLengthM (.fin false 2023 0) = true →
    F64.lt (F64.mul (.fin true 1022 0x8000000000000) l) e.posA = true → F64.lt e.posA l = true →
    F64.le (F64.neg l) (F64.mul u.velocityMps dt) = true → F64.le (F64.mul u.velocityMps dt) l = true →
    F64.le (F64.neg l) u.posA = true ∧ F64.le u.posA l = true ∧
      F64.le (F64.neg l) u.posB = true ∧ F64.le u.posB l = true

/-- R13: of two finite operands the sum, the difference, the product and the quotient are the exact result rounded once, to
nearest, ties to even; an exact zero sum is negative only when both terms are, and a division by zero is an infinity, or
NaN for 0 / 0. (A product or quotient of places has units of 2^-1074, hence the power.) R13 is the spec's decision D2. -/
def Obligations.ArithmeticRoundsTheExactResult : Prop :=
  ∀ a b : F64, a.isFinite = true → b.isFinite = true →
    (a.place + b.place ≠ 0 →
      (F64.add a b).NearestEven (decide (a.place + b.place < 0)) (a.place + b.place).natAbs 1) ∧
    (a.place + b.place = 0 → F64.add a b = .fin (a.signBit && b.signBit) 0 0) ∧
    (a.place - b.place ≠ 0 →
      (F64.sub a b).NearestEven (decide (a.place - b.place < 0)) (a.place - b.place).natAbs 1) ∧
    (a.place - b.place = 0 → F64.sub a b = .fin (a.signBit && !b.signBit) 0 0) ∧
    (F64.mul a b).NearestEven (a.signBit != b.signBit) (a.mag * b.mag) (2 ^ 1074) ∧
    (b.mag ≠ 0 → (F64.div a b).NearestEven (a.signBit != b.signBit) (a.mag * 2 ^ 1074) b.mag) ∧
    (b.mag = 0 → F64.div a b = if a.mag = 0 then .nan else .inf (a.signBit != b.signBit))

/-- R14: narrowing a finite binary64 is to the nearest binary32, ties to even, keeps the sign, and gives the infinity exactly
from half-way past the largest finite binary32 on; an infinity stays one, and a NaN takes the pattern it is given (log
entry 8). Binary32 magnitudes are written in units of 2^-149, which are 2^925 units of 2^-1074. R14 is the spec's decision
D6. -/
def Obligations.NarrowingIsToNearestTiesToEven : Prop :=
  (∀ n : Word32, f32OfF64 n (.inf false) = 0x7F800000#32 ∧ f32OfF64 n (.inf true) = 0xFF800000#32 ∧
    f32OfF64 n .nan = n) ∧
  ∀ (x : F64) (n : Word32), x.isFinite = true →
    let w := f32OfF64 n x
    let mag : Word32 → Nat := fun c =>
      (if f32Exp c = 0 then f32Frac c else (2 ^ 23 + f32Frac c) * 2 ^ (f32Exp c - 1)) * 2 ^ 925
    w.msb = x.signBit ∧ f32IsNaN w = false ∧ (f32Exp w = 255 ↔ (2 ^ 277 - 2 ^ 252) * 2 ^ 925 ≤ x.mag) ∧
    (f32Exp w ≠ 255 → ∀ c : Word32, f32Exp c ≠ 255 →
      ((mag w : Int) - x.mag).natAbs ≤ ((mag c : Int) - x.mag).natAbs ∧
      (mag c ≠ mag w → ((mag w : Int) - x.mag).natAbs = ((mag c : Int) - x.mag).natAbs → w.toNat % 2 = 0))
end

