-- ==== Sys2Proof/Laws/EncoderModel.lean ====
section
/-! SUPPORT. One lemma for each operation on an Encoder record that says once what it can do. -/

namespace Sys2Proof
namespace Machine
namespace Encoder

/-- R26, R50: the default step length is PI / 256. -/
theorem stepLength_default :
    stepLengthOf Config.defaultDiameter Config.defaultPpr = .fin false 1016 0x921FB54442D18 := by decide +kernel

/-- R132, R50: what `reset` leaves, every field. -/
theorem reset_eq (e : Encoder) :
    e.reset =
      { dutyA := Config.defaultDuty, dutyB := Config.defaultDuty, faultInjection := e.faultInjection,
        phaseDeg := Config.defaultPhase, ppr := Config.defaultPpr, wheelDiameterM := Config.defaultDiameter,
        stepLengthM := .fin false 1016 0x921FB54442D18, posA := F64.zero, posB := F64.zero, velocityMps := F64.zero,
        accelerationMps2 := F64.zero, pulseCount := 0#16, quadratureState := .unknown } := by
  simp only [reset, recomputeStepLength, stepLength_default]

/-- R132: resetting twice is resetting once. -/
theorem reset_reset (e : Encoder) : e.reset.reset = e.reset := by rw [reset_eq, reset_eq]

/-- R131: the recomputation reads the diameter and `ppr` only, so doing it twice is doing it once. -/
theorem recompute_recompute (e : Encoder) : e.recomputeStepLength.recomputeStepLength = e.recomputeStepLength := rfl

/-- R151: what an accepted CONNECT leaves in one record. -/
theorem configure_eq (d : F64) (p : Half) (e : Encoder) :
    e.configure d p = { e with wheelDiameterM := d, ppr := p, stepLengthM := stepLengthOf d p } := rfl

/-- R120: an update writes the velocity and the two positions. -/
theorem update_frame (dt : F64) (e : Encoder) :
    ∃ v a b, e.update dt = { e with velocityMps := v, posA := a, posB := b } := ⟨_, _, _, rfl⟩

/-- R125: a decode step writes the count and the state. -/
theorem decode_frame (a b : Bool) (e : Encoder) :
    ∃ c, e.decode a b = { e with pulseCount := c, quadratureState := mapped a b } := by
  unfold decode
  split
  · rename_i h
    exact ⟨e.pulseCount, by rw [h]⟩
  · exact ⟨_, rfl⟩

@[simp] theorem decode_state (a b : Bool) (e : Encoder) : (e.decode a b).quadratureState = mapped a b := by
  obtain ⟨c, h⟩ := decode_frame a b e
  rw [h]

/-- R125, R257: a decode step adds at most one to the count. -/
theorem decode_count_le (a b : Bool) (e : Encoder) : (e.decode a b).pulseCount.toNat ≤ e.pulseCount.toNat + 1 := by
  unfold decode
  split
  · omega
  · dsimp only
    split
    · omega
    · rw [BitVec.toNat_add]
      exact Nat.mod_le _ _

/-- R125: `mapped` is never `Unknown`. -/
theorem mapped_ne_unknown (a b : Bool) : mapped a b ≠ .unknown := by cases a <;> cases b <;> decide

end Encoder
end Machine
end Sys2Proof
end

