-- ==== Sys2Proof/Laws/Numerics.lean ====
section
/-! SUPPORT. Rounding and the magnitude patterns (spec/00_scope.md rules R13, R14): a pattern's value, its order, what
`roundMag` answers, and that it rounds nothing off a value the format holds. -/

namespace Sys2Proof
namespace F64

/-- The value of a magnitude pattern in units of the format's smallest positive value. -/
def patternUnits (p m : Nat) : Nat := units p (m / 2 ^ (p - 1)) (m % 2 ^ (p - 1))

/-- A pattern written as `k` binades above the subnormals and a significand `q`. -/
theorem patternUnits_binade {p : Nat} (hp : 1 ≤ p) (k q : Nat) (hq : q ≤ 2 ^ p) (hk : k = 0 ∨ 2 ^ (p - 1) ≤ q) :
    patternUnits p (k * 2 ^ (p - 1) + q) = q * 2 ^ k := by
  have hpos : 0 < 2 ^ (p - 1) := Nat.two_pow_pos _
  have h2 : 2 ^ p = 2 ^ (p - 1) * 2 := by rw [← pow_succ]; congr 1; omega
  unfold patternUnits units
  generalize 2 ^ (p - 1) = b at *
  rcases Nat.lt_or_ge q b with hlt | hge
  · have hk0 : k = 0 := by omega
    subst hk0
    simp [Nat.div_eq_of_lt hlt, Nat.mod_eq_of_lt hlt]
  · obtain ⟨f, rfl⟩ := Nat.exists_eq_add_of_le hge
    rcases Nat.lt_or_ge f b with hf | hf
    · have hd : (k * b + (b + f)) / b = k + 1 := by
        rw [show k * b + (b + f) = f + b * (k + 1) by ring, Nat.add_mul_div_left _ _ hpos, Nat.div_eq_of_lt hf]; omega
      have hm : (k * b + (b + f)) % b = f := by
        rw [show k * b + (b + f) = f + b * (k + 1) by ring, Nat.add_mul_mod_self_left, Nat.mod_eq_of_lt hf]
      rw [hd, hm]; simp
    · have hfb : f = b := by omega
      subst hfb
      have hd : (k * f + (f + f)) / f = k + 2 := by
        rw [show k * f + (f + f) = f * (k + 2) by ring, Nat.mul_div_cancel_left _ hpos]
      have hm : (k * f + (f + f)) % f = 0 := by
        rw [show k * f + (f + f) = f * (k + 2) by ring, Nat.mul_mod_right]
      rw [hd, hm]; simp [pow_succ]; ring

/-- Every pattern is of that form. -/
theorem pattern_binade {p : Nat} (hp : 1 ≤ p) (m : Nat) :
    ∃ k q, m = k * 2 ^ (p - 1) + q ∧ q < 2 ^ p ∧ (k = 0 ∨ 2 ^ (p - 1) ≤ q) := by
  have hpos : 0 < 2 ^ (p - 1) := Nat.two_pow_pos _
  have h2 : 2 ^ p = 2 ^ (p - 1) * 2 := by rw [← pow_succ]; congr 1; omega
  have hdm := Nat.div_add_mod m (2 ^ (p - 1))
  have hlt := Nat.mod_lt m hpos
  rcases Nat.eq_zero_or_pos (m / 2 ^ (p - 1)) with h0 | h1
  · exact ⟨0, m, by simp, by rw [h0] at hdm; omega, .inl rfl⟩
  · obtain ⟨k, hk⟩ := Nat.exists_eq_add_of_le h1
    refine ⟨k, 2 ^ (p - 1) + m % 2 ^ (p - 1), ?_, by omega, .inr (by omega)⟩
    rw [hk, Nat.mul_add, Nat.mul_one, Nat.mul_comm _ k] at hdm
    omega

theorem patternUnits_lt_succ {p : Nat} (hp : 1 ≤ p) (m : Nat) : patternUnits p m < patternUnits p (m + 1) := by
  obtain ⟨k, q, rfl, hq, hk⟩ := pattern_binade hp m
  rw [patternUnits_binade hp k q hq.le hk, Nat.add_assoc, patternUnits_binade hp k (q + 1) hq (by omega)]
  exact Nat.mul_lt_mul_of_pos_right (Nat.lt_succ_self q) (Nat.two_pow_pos k)

/-- The order of the patterns is the order of the values. -/
theorem patternUnits_strictMono {p : Nat} (hp : 1 ≤ p) : StrictMono (patternUnits p) :=
  strictMono_nat_of_lt_succ (patternUnits_lt_succ hp)

/-- What `roundMag` answers: the pattern of the largest value `q * 2 ^ k` not above `n / d`, or the next one up when `n / d`
is nearer to it, or half-way and `q` is odd. -/
theorem roundMag_bracket {p d : Nat} (hp : 1 ≤ p) (hd : 0 < d) (n : Nat) :
    ∃ k q, q < 2 ^ p ∧ (k = 0 ∨ 2 ^ (p - 1) ≤ q) ∧ d * (q * 2 ^ k) ≤ n ∧ n < d * ((q + 1) * 2 ^ k) ∧
      roundMag p n d = k * 2 ^ (p - 1) +
        (if d * (q * 2 ^ k) + d * ((q + 1) * 2 ^ k) < 2 * n ∨
            (d * (q * 2 ^ k) + d * ((q + 1) * 2 ^ k) = 2 * n ∧ q % 2 = 1) then q + 1 else q) := by
  set k := Nat.log2 (n / d) + 1 - p with hkdef
  have hdk : 0 < d * 2 ^ k := Nat.mul_pos hd (Nat.two_pow_pos k)
  have hqdef : n / (d * 2 ^ k) = n / d / 2 ^ k := (Nat.div_div_eq_div_mul n d (2 ^ k)).symm
  have hdm := Nat.div_add_mod n (d * 2 ^ k)
  have hr := Nat.mod_lt n hdk
  refine ⟨k, n / (d * 2 ^ k), ?_, ?_, ?_, ?_, ?_⟩
  · rw [hqdef]
    apply Nat.div_lt_of_lt_mul
    have h1 : n / d < 2 ^ (Nat.log2 (n / d) + 1) := Nat.lt_log2_self
    refine h1.trans_le ?_
    rw [← pow_add]
    exact Nat.pow_le_pow_right (by norm_num) (by omega)
  · rcases Nat.eq_zero_or_pos k with h0 | h0
    · exact .inl h0
    · right
      rw [hqdef, Nat.le_div_iff_mul_le (Nat.two_pow_pos k), ← pow_add]
      have hne : n / d ≠ 0 := by
        intro hz
        rw [hkdef, hz] at h0
        simp at h0
        omega
      refine le_trans (Nat.pow_le_pow_right (by norm_num) ?_) (Nat.log2_self_le hne)
      omega
  · calc d * (n / (d * 2 ^ k) * 2 ^ k) = d * 2 ^ k * (n / (d * 2 ^ k)) := by ring
      _ ≤ n := by omega
  · calc n < d * 2 ^ k * (n / (d * 2 ^ k)) + d * 2 ^ k := by omega
      _ = d * ((n / (d * 2 ^ k) + 1) * 2 ^ k) := by ring
  · simp only [roundMag, ← hkdef]
    congr 1
    have e1 : d * (n / (d * 2 ^ k) * 2 ^ k) = d * 2 ^ k * (n / (d * 2 ^ k)) := by ring
    have e2 : d * ((n / (d * 2 ^ k) + 1) * 2 ^ k) = d * 2 ^ k * (n / (d * 2 ^ k)) + d * 2 ^ k := by ring
    rw [e1, e2]
    refine if_congr ?_ rfl rfl
    constructor <;> (intro h; rcases h with h | h) <;> omega

/-- A value the format holds is not rounded. -/
theorem roundMag_pattern {p d : Nat} (hp : 1 ≤ p) (hd : 0 < d) (m : Nat) :
    roundMag p (d * patternUnits p m) d = m := by
  obtain ⟨k, q, hq, hk, hlo, hhi, h⟩ := roundMag_bracket hp hd (d * patternUnits p m)
  have hv := patternUnits_binade hp k q hq.le hk
  have hv1 := patternUnits_binade hp k (q + 1) hq (by omega)
  rw [← hv] at hlo h
  have h1 : patternUnits p (k * 2 ^ (p - 1) + q) ≤ patternUnits p m := Nat.le_of_mul_le_mul_left hlo hd
  have h2 : patternUnits p m < patternUnits p (k * 2 ^ (p - 1) + (q + 1)) := by
    rw [hv1]; exact Nat.lt_of_mul_lt_mul_left hhi
  have hm1 := (patternUnits_strictMono hp).le_iff_le.1 h1
  have hm2 := (patternUnits_strictMono hp).lt_iff_lt.1 h2
  have hm : m = k * 2 ^ (p - 1) + q := by omega
  rw [h, if_neg]
  · exact hm.symm
  · rw [← hm]
    omega

/-- Rounding does not go below a value of the format that `n / d` is not below. -/
theorem le_roundMag {p d n m : Nat} (hp : 1 ≤ p) (hd : 0 < d) (h : d * patternUnits p m ≤ n) : m ≤ roundMag p n d := by
  obtain ⟨k, q, hq, hk, -, hhi, hr⟩ := roundMag_bracket hp hd n
  rw [← patternUnits_binade hp k (q + 1) hq (by omega)] at hhi
  have := (patternUnits_strictMono hp).lt_iff_lt.1 (Nat.lt_of_mul_lt_mul_left (h.trans_lt hhi))
  rw [hr]
  split <;> omega

/-- Rounding does not go above a value of the format that `n / d` is not above. -/
theorem roundMag_le {p d n m : Nat} (hp : 1 ≤ p) (hd : 0 < d) (h : n ≤ d * patternUnits p m) : roundMag p n d ≤ m := by
  obtain ⟨k, q, hq, hk, hlo, hhi, hr⟩ := roundMag_bracket hp hd n
  rw [← patternUnits_binade hp k q hq.le hk] at hlo
  have hle := (patternUnits_strictMono hp).le_iff_le.1 (Nat.le_of_mul_le_mul_left (hlo.trans h) hd)
  rcases hle.lt_or_eq with hlt | heq
  · rw [hr]
    split <;> omega
  · rw [← patternUnits_binade hp k q hq.le hk, heq] at hr
    rw [hr, if_neg (by omega), ← heq]

/-- The values of neighbouring patterns bracket every magnitude. -/
theorem exists_bracket {p d : Nat} (hp : 1 ≤ p) (hd : 0 < d) (n : Nat) :
    ∃ m, d * patternUnits p m ≤ n ∧ n < d * patternUnits p (m + 1) := by
  obtain ⟨k, q, hq, hk, hlo, hhi, -⟩ := roundMag_bracket hp hd n
  refine ⟨k * 2 ^ (p - 1) + q, ?_, ?_⟩
  · rwa [patternUnits_binade hp k q hq.le hk]
  · rwa [Nat.add_assoc, patternUnits_binade hp k (q + 1) hq (by omega)]

/-- R13, R14: between the values of two neighbouring patterns the nearer one is taken, and half-way the even pattern. -/
theorem roundMag_eq {p d n m : Nat} (hp : 2 ≤ p) (hd : 0 < d) (hlo : d * patternUnits p m ≤ n)
    (hhi : n < d * patternUnits p (m + 1)) :
    roundMag p n d =
      if d * patternUnits p m + d * patternUnits p (m + 1) < 2 * n ∨
          (d * patternUnits p m + d * patternUnits p (m + 1) = 2 * n ∧ m % 2 = 1) then m + 1 else m := by
  have hp1 : 1 ≤ p := by omega
  have mono := patternUnits_strictMono hp1
  obtain ⟨k, q, hq, hk, hlo', hhi', hr⟩ := roundMag_bracket hp1 hd n
  rw [← patternUnits_binade hp1 k q hq.le hk] at hlo' hr
  rw [← patternUnits_binade hp1 k (q + 1) hq (by omega)] at hhi' hr
  have h1 := mono.lt_iff_lt.1 (Nat.lt_of_mul_lt_mul_left (hlo.trans_lt hhi'))
  have h2 := mono.lt_iff_lt.1 (Nat.lt_of_mul_lt_mul_left (hlo'.trans_lt hhi))
  have hm : m = k * 2 ^ (p - 1) + q := by omega
  have hpar : m % 2 = q % 2 := by
    obtain ⟨j, rfl⟩ := Nat.exists_eq_add_of_le hp
    rw [hm, show 2 + j - 1 = j + 1 by omega, pow_succ, ← Nat.mul_assoc, Nat.mul_add_mod_self_right]
  rw [hr, hpar, ← Nat.add_assoc, ← hm]
  split <;> omega

/-- The distance to the next pattern's value does not shrink as patterns grow. -/
theorem patternGap_mono {p : Nat} (hp : 1 ≤ p) :
    Monotone fun m => patternUnits p (m + 1) - patternUnits p m := by
  refine monotone_nat_of_le_succ fun m => ?_
  have h2 : 2 ^ p = 2 ^ (p - 1) * 2 := by rw [← pow_succ]; congr 1; omega
  obtain ⟨k, q, rfl, hq, hk⟩ := pattern_binade hp m
  have hk1 : k = 0 ∨ 2 ^ (p - 1) ≤ q + 1 := by omega
  have hgap : patternUnits p (k * 2 ^ (p - 1) + q + 1) - patternUnits p (k * 2 ^ (p - 1) + q) = 2 ^ k := by
    rw [Nat.add_assoc, patternUnits_binade hp k q hq.le hk, patternUnits_binade hp k (q + 1) hq hk1, ← Nat.sub_mul]
    simp
  have hnext : 2 ^ k ≤ patternUnits p (k * 2 ^ (p - 1) + q + 1 + 1) - patternUnits p (k * 2 ^ (p - 1) + q + 1) := by
    rcases Nat.lt_or_ge (q + 1) (2 ^ p) with h | h
    · rw [Nat.add_assoc _ q 1, Nat.add_assoc _ (q + 1) 1, patternUnits_binade hp k (q + 1) hq hk1,
        patternUnits_binade hp k (q + 1 + 1) h (by omega), ← Nat.sub_mul]
      simp
    · have hb := Nat.two_pow_pos (p - 1)
      have e : k * 2 ^ (p - 1) + q + 1 = (k + 1) * 2 ^ (p - 1) + 2 ^ (p - 1) := by
        rw [Nat.add_assoc, show q + 1 = 2 ^ (p - 1) + 2 ^ (p - 1) by omega]; ring
      rw [e, Nat.add_assoc, patternUnits_binade hp (k + 1) _ (by omega) (by omega),
        patternUnits_binade hp (k + 1) _ (by omega) (by omega), ← Nat.sub_mul]
      simp [pow_succ]
  exact hgap.le.trans hnext

/-- Rounding keeps the order. -/
theorem roundMag_mono {p d n n' : Nat} (hp : 2 ≤ p) (hd : 0 < d) (h : n ≤ n') : roundMag p n d ≤ roundMag p n' d := by
  obtain ⟨m, hlo, hhi⟩ := exists_bracket (p := p) (by omega) hd n
  rcases Nat.lt_or_ge n' (d * patternUnits p (m + 1)) with h' | h'
  · rw [roundMag_eq hp hd hlo hhi, roundMag_eq hp hd (hlo.trans h) h']
    split <;> split <;> omega
  · exact (roundMag_le (by omega) hd hhi.le).trans (le_roundMag (by omega) hd h')

/-- A value with at most `p` significand bits is the value of a pattern. -/
theorem exists_pattern {p : Nat} (hp : 1 ≤ p) (c j : Nat) (hc : c < 2 ^ p) :
    ∃ m, patternUnits p m = c * 2 ^ j := by
  induction j generalizing c with
  | zero => exact ⟨c, by simpa using patternUnits_binade hp 0 c hc.le (.inl rfl)⟩
  | succ j ih =>
    rcases Nat.lt_or_ge c (2 ^ (p - 1)) with h | h
    · have h2 : 2 ^ p = 2 ^ (p - 1) * 2 := by rw [← pow_succ]; congr 1; omega
      obtain ⟨m, hm⟩ := ih (c * 2) (by omega)
      exact ⟨m, by rw [hm, pow_succ]; ring⟩
    · exact ⟨_, patternUnits_binade hp (j + 1) c hc.le (.inr h)⟩

/-- Rounding a value with at most `p` significand bits gives the pattern of that very value. -/
theorem roundMag_exact {p d : Nat} (hp : 1 ≤ p) (hd : 0 < d) (c j : Nat) (hc : c < 2 ^ p) :
    patternUnits p (roundMag p (d * (c * 2 ^ j)) d) = c * 2 ^ j := by
  obtain ⟨m, hm⟩ := exists_pattern hp c j hc
  rw [← hm, roundMag_pattern hp hd]

/-- The magnitude of a finite value is the value of its pattern. -/
theorem mag_fin (s : Bool) (e : Fin 2047) (f : Fin (2 ^ 52)) :
    mag (.fin s e f) = patternUnits 53 (e.val * 2 ^ 52 + f.val) := by
  have hf : f.val < 2 ^ 52 := f.isLt
  have hd : (e.val * 2 ^ 52 + f.val) / 2 ^ 52 = e.val := by omega
  have hm : (e.val * 2 ^ 52 + f.val) % 2 ^ 52 = f.val := by omega
  simp only [mag, patternUnits, show (53 - 1 : Nat) = 52 from rfl, hd, hm]

/-- A finite value is made again from its sign and pattern. -/
theorem ofMag_pattern (s : Bool) (e : Fin 2047) (f : Fin (2 ^ 52)) : ofMag s (e.val * 2 ^ 52 + f.val) = .fin s e f := by
  have hf : f.val < 2 ^ 52 := f.isLt
  have he : e.val < 2047 := e.isLt
  have hd : (e.val * 2 ^ 52 + f.val) / 2 ^ 52 = e.val := by omega
  have hm : (e.val * 2 ^ 52 + f.val) % 2 ^ 52 = f.val := by omega
  unfold ofMag
  rw [dif_pos (by omega)]
  congr 1
  · exact Fin.ext hd
  · exact Fin.ext hm

/-- R13: rounding a value binary64 holds gives it back. -/
theorem round_mag (s : Bool) (e : Fin 2047) (f : Fin (2 ^ 52)) : round s (mag (.fin s e f)) 1 = .fin s e f := by
  have h := roundMag_pattern (p := 53) (d := 1) (by norm_num) one_pos (e.val * 2 ^ 52 + f.val)
  rw [Nat.one_mul] at h
  rw [round, mag_fin, h, ofMag_pattern]

/-! ### NaN, order and unit laws (R13). -/

@[simp] theorem add_nan_left (x : F64) : add .nan x = .nan := rfl
@[simp] theorem add_nan_right (x : F64) : add x .nan = .nan := by cases x <;> rfl
@[simp] theorem mul_nan_left (x : F64) : mul .nan x = .nan := rfl
@[simp] theorem mul_nan_right (x : F64) : mul x .nan = .nan := by cases x <;> rfl
@[simp] theorem lt_nan_left (x : F64) : lt .nan x = false := by simp [lt, isNaN]
@[simp] theorem lt_nan_right (x : F64) : lt x .nan = false := by simp [lt, isNaN]
@[simp] theorem le_nan_left (x : F64) : le .nan x = false := by simp [le, isNaN]
@[simp] theorem le_nan_right (x : F64) : le x .nan = false := by simp [le, isNaN]

/-- For two numbers, not below is at or above. -/
theorem le_of_not_lt {a b : F64} (ha : a ≠ .nan) (hb : b ≠ .nan) (h : lt a b = false) : le b a = true := by
  have ha' : a.isNaN = false := by cases a <;> simp_all [isNaN]
  have hb' : b.isNaN = false := by cases b <;> simp_all [isNaN]
  simp only [lt, le, ha', hb', Bool.not_false, Bool.true_and, decide_eq_false_iff_not, decide_eq_true_eq] at *
  omega

/-- No value is at or above a bound and below it. -/
theorem not_le_and_lt (a b : F64) : (le a b && lt b a) = false := by
  rw [Bool.eq_false_iff]
  intro h
  simp only [le, lt, Bool.and_eq_true, decide_eq_true_eq] at h
  omega

/-- R15: a clamped value is the NaN or lies between the bounds. -/
theorem clamp_cases {lo hi : F64} (v : F64) (hlo : lo ≠ .nan) (hhi : hi ≠ .nan) (h : le lo hi = true) :
    clamp v lo hi = .nan ∨ (le lo (clamp v lo hi) = true ∧ le (clamp v lo hi) hi = true) := by
  have refl : ∀ x : F64, x ≠ .nan → le x x = true := by
    intro x hx
    exact le_of_not_lt hx hx (by simp [lt])
  unfold clamp
  split
  · exact .inr ⟨h, refl hi hhi⟩
  · rename_i h1
    split
    · exact .inr ⟨refl lo hlo, h⟩
    · rename_i h2
      by_cases hv : v = .nan
      · exact .inl hv
      · exact .inr ⟨le_of_not_lt hv hlo (by simpa using h2), le_of_not_lt hhi hv (by simpa using h1)⟩

/-- R13: the product with 1 is exact. -/
theorem mul_one_left (x : F64) : mul (ofNat 1) x = x := by
  have h1 : ofNat 1 = .fin false 1023 0 := by decide +kernel
  rw [h1]
  cases x with
  | nan => rfl
  | inf s =>
    have : mag (.fin false 1023 0) ≠ 0 := by decide +kernel
    simp [mul, this]
  | fin s e f =>
    have hm : mag (.fin false 1023 0) = 2 ^ 1074 := by decide +kernel
    have hr := roundMag_pattern (p := 53) (d := 2 ^ 1074) (by norm_num) (Nat.two_pow_pos _) (e.val * 2 ^ 52 + f.val)
    simp only [mul, round, hm, mag_fin, unitExp]
    rw [hr, ofMag_pattern, Bool.false_bne]

end F64
end Sys2Proof
end

