-- ==== Sys2Proof/Laws/State.lean ====
section
/-! SUPPORT. One lemma per field per update of the state, so that no later proof unfolds a record update. -/

namespace Sys2Proof
namespace Machine
namespace State

@[simp] theorem withHandshake_enc1 (v : Bool) (s : State) : (s.withHandshake v).enc1 = s.enc1 := rfl
@[simp] theorem withHandshake_enc2 (v : Bool) (s : State) : (s.withHandshake v).enc2 = s.enc2 := rfl
@[simp] theorem withHandshake_connected (v : Bool) (s : State) : (s.withHandshake v).connected = s.connected := rfl
@[simp] theorem withHandshake_handshakePending (v : Bool) (s : State) : (s.withHandshake v).handshakePending = v := rfl
@[simp] theorem withHandshake_rxBuf (v : Bool) (s : State) : (s.withHandshake v).rxBuf = s.rxBuf := rfl
@[simp] theorem withHandshake_rxLen (v : Bool) (s : State) : (s.withHandshake v).rxLen = s.rxLen := rfl
@[simp] theorem withHandshake_slowTicksElapsed (v : Bool) (s : State) : (s.withHandshake v).slowTicksElapsed = s.slowTicksElapsed := rfl
@[simp] theorem withHandshake_out1 (v : Bool) (s : State) : (s.withHandshake v).out1 = s.out1 := rfl
@[simp] theorem withHandshake_out2 (v : Bool) (s : State) : (s.withHandshake v).out2 = s.out2 := rfl
@[simp] theorem withHandshake_tx (v : Bool) (s : State) : (s.withHandshake v).tx = s.tx := rfl
@[simp] theorem withHandshake_halted (v : Bool) (s : State) : (s.withHandshake v).halted = s.halted := rfl
@[simp] theorem withHandshake_params (v : Bool) (s : State) : (s.withHandshake v).params = s.params := rfl
@[simp] theorem withHandshake_arrivals (v : Bool) (s : State) : (s.withHandshake v).arrivals = s.arrivals := rfl
@[simp] theorem withHandshake_nanDraws (v : Bool) (s : State) : (s.withHandshake v).nanDraws = s.nanDraws := rfl

@[simp] theorem withConnected_enc1 (v : Bool) (s : State) : (s.withConnected v).enc1 = s.enc1 := rfl
@[simp] theorem withConnected_enc2 (v : Bool) (s : State) : (s.withConnected v).enc2 = s.enc2 := rfl
@[simp] theorem withConnected_connected (v : Bool) (s : State) : (s.withConnected v).connected = v := rfl
@[simp] theorem withConnected_handshakePending (v : Bool) (s : State) : (s.withConnected v).handshakePending = s.handshakePending := rfl
@[simp] theorem withConnected_rxBuf (v : Bool) (s : State) : (s.withConnected v).rxBuf = s.rxBuf := rfl
@[simp] theorem withConnected_rxLen (v : Bool) (s : State) : (s.withConnected v).rxLen = s.rxLen := rfl
@[simp] theorem withConnected_slowTicksElapsed (v : Bool) (s : State) : (s.withConnected v).slowTicksElapsed = s.slowTicksElapsed := rfl
@[simp] theorem withConnected_out1 (v : Bool) (s : State) : (s.withConnected v).out1 = s.out1 := rfl
@[simp] theorem withConnected_out2 (v : Bool) (s : State) : (s.withConnected v).out2 = s.out2 := rfl
@[simp] theorem withConnected_tx (v : Bool) (s : State) : (s.withConnected v).tx = s.tx := rfl
@[simp] theorem withConnected_halted (v : Bool) (s : State) : (s.withConnected v).halted = s.halted := rfl
@[simp] theorem withConnected_params (v : Bool) (s : State) : (s.withConnected v).params = s.params := rfl
@[simp] theorem withConnected_arrivals (v : Bool) (s : State) : (s.withConnected v).arrivals = s.arrivals := rfl
@[simp] theorem withConnected_nanDraws (v : Bool) (s : State) : (s.withConnected v).nanDraws = s.nanDraws := rfl

@[simp] theorem txAppend_enc1 (bs : List Byte) (s : State) : (s.txAppend bs).enc1 = s.enc1 := rfl
@[simp] theorem txAppend_enc2 (bs : List Byte) (s : State) : (s.txAppend bs).enc2 = s.enc2 := rfl
@[simp] theorem txAppend_connected (bs : List Byte) (s : State) : (s.txAppend bs).connected = s.connected := rfl
@[simp] theorem txAppend_handshakePending (bs : List Byte) (s : State) : (s.txAppend bs).handshakePending = s.handshakePending := rfl
@[simp] theorem txAppend_rxBuf (bs : List Byte) (s : State) : (s.txAppend bs).rxBuf = s.rxBuf := rfl
@[simp] theorem txAppend_rxLen (bs : List Byte) (s : State) : (s.txAppend bs).rxLen = s.rxLen := rfl
@[simp] theorem txAppend_slowTicksElapsed (bs : List Byte) (s : State) : (s.txAppend bs).slowTicksElapsed = s.slowTicksElapsed := rfl
@[simp] theorem txAppend_out1 (bs : List Byte) (s : State) : (s.txAppend bs).out1 = s.out1 := rfl
@[simp] theorem txAppend_out2 (bs : List Byte) (s : State) : (s.txAppend bs).out2 = s.out2 := rfl
@[simp] theorem txAppend_tx (bs : List Byte) (s : State) : (s.txAppend bs).tx = s.tx ++ bs := rfl
@[simp] theorem txAppend_halted (bs : List Byte) (s : State) : (s.txAppend bs).halted = s.halted := rfl
@[simp] theorem txAppend_params (bs : List Byte) (s : State) : (s.txAppend bs).params = s.params := rfl
@[simp] theorem txAppend_arrivals (bs : List Byte) (s : State) : (s.txAppend bs).arrivals = s.arrivals := rfl
@[simp] theorem txAppend_nanDraws (bs : List Byte) (s : State) : (s.txAppend bs).nanDraws = s.nanDraws := rfl

@[simp] theorem rxPut_enc1 (b : Byte) (s : State) : (s.rxPut b).enc1 = s.enc1 := rfl
@[simp] theorem rxPut_enc2 (b : Byte) (s : State) : (s.rxPut b).enc2 = s.enc2 := rfl
@[simp] theorem rxPut_connected (b : Byte) (s : State) : (s.rxPut b).connected = s.connected := rfl
@[simp] theorem rxPut_handshakePending (b : Byte) (s : State) : (s.rxPut b).handshakePending = s.handshakePending := rfl
@[simp] theorem rxPut_rxBuf (b : Byte) (s : State) : (s.rxPut b).rxBuf = s.rxBuf.setIfInBounds s.rxLen b := rfl
@[simp] theorem rxPut_rxLen (b : Byte) (s : State) : (s.rxPut b).rxLen = s.rxLen + 1 := rfl
@[simp] theorem rxPut_slowTicksElapsed (b : Byte) (s : State) : (s.rxPut b).slowTicksElapsed = s.slowTicksElapsed := rfl
@[simp] theorem rxPut_out1 (b : Byte) (s : State) : (s.rxPut b).out1 = s.out1 := rfl
@[simp] theorem rxPut_out2 (b : Byte) (s : State) : (s.rxPut b).out2 = s.out2 := rfl
@[simp] theorem rxPut_tx (b : Byte) (s : State) : (s.rxPut b).tx = s.tx := rfl
@[simp] theorem rxPut_halted (b : Byte) (s : State) : (s.rxPut b).halted = s.halted := rfl
@[simp] theorem rxPut_params (b : Byte) (s : State) : (s.rxPut b).params = s.params := rfl
@[simp] theorem rxPut_arrivals (b : Byte) (s : State) : (s.rxPut b).arrivals = s.arrivals := rfl
@[simp] theorem rxPut_nanDraws (b : Byte) (s : State) : (s.rxPut b).nanDraws = s.nanDraws := rfl

@[simp] theorem rxDone_enc1 (s : State) : (s.rxDone).enc1 = s.enc1 := rfl
@[simp] theorem rxDone_enc2 (s : State) : (s.rxDone).enc2 = s.enc2 := rfl
@[simp] theorem rxDone_connected (s : State) : (s.rxDone).connected = s.connected := rfl
@[simp] theorem rxDone_handshakePending (s : State) : (s.rxDone).handshakePending = s.handshakePending := rfl
@[simp] theorem rxDone_rxBuf (s : State) : (s.rxDone).rxBuf = s.rxBuf := rfl
@[simp] theorem rxDone_rxLen (s : State) : (s.rxDone).rxLen = 0 := rfl
@[simp] theorem rxDone_slowTicksElapsed (s : State) : (s.rxDone).slowTicksElapsed = s.slowTicksElapsed := rfl
@[simp] theorem rxDone_out1 (s : State) : (s.rxDone).out1 = s.out1 := rfl
@[simp] theorem rxDone_out2 (s : State) : (s.rxDone).out2 = s.out2 := rfl
@[simp] theorem rxDone_tx (s : State) : (s.rxDone).tx = s.tx := rfl
@[simp] theorem rxDone_halted (s : State) : (s.rxDone).halted = s.halted := rfl
@[simp] theorem rxDone_params (s : State) : (s.rxDone).params = s.params := rfl
@[simp] theorem rxDone_arrivals (s : State) : (s.rxDone).arrivals = s.arrivals := rfl
@[simp] theorem rxDone_nanDraws (s : State) : (s.rxDone).nanDraws = s.nanDraws := rfl

@[simp] theorem withArrivals_enc1 (es : List Event) (s : State) : (s.withArrivals es).enc1 = s.enc1 := rfl
@[simp] theorem withArrivals_enc2 (es : List Event) (s : State) : (s.withArrivals es).enc2 = s.enc2 := rfl
@[simp] theorem withArrivals_connected (es : List Event) (s : State) : (s.withArrivals es).connected = s.connected := rfl
@[simp] theorem withArrivals_handshakePending (es : List Event) (s : State) : (s.withArrivals es).handshakePending = s.handshakePending := rfl
@[simp] theorem withArrivals_rxBuf (es : List Event) (s : State) : (s.withArrivals es).rxBuf = s.rxBuf := rfl
@[simp] theorem withArrivals_rxLen (es : List Event) (s : State) : (s.withArrivals es).rxLen = s.rxLen := rfl
@[simp] theorem withArrivals_slowTicksElapsed (es : List Event) (s : State) : (s.withArrivals es).slowTicksElapsed = s.slowTicksElapsed := rfl
@[simp] theorem withArrivals_out1 (es : List Event) (s : State) : (s.withArrivals es).out1 = s.out1 := rfl
@[simp] theorem withArrivals_out2 (es : List Event) (s : State) : (s.withArrivals es).out2 = s.out2 := rfl
@[simp] theorem withArrivals_tx (es : List Event) (s : State) : (s.withArrivals es).tx = s.tx := rfl
@[simp] theorem withArrivals_halted (es : List Event) (s : State) : (s.withArrivals es).halted = s.halted := rfl
@[simp] theorem withArrivals_params (es : List Event) (s : State) : (s.withArrivals es).params = s.params := rfl
@[simp] theorem withArrivals_arrivals (es : List Event) (s : State) : (s.withArrivals es).arrivals = es := rfl
@[simp] theorem withArrivals_nanDraws (es : List Event) (s : State) : (s.withArrivals es).nanDraws = s.nanDraws := rfl

@[simp] theorem withSlowTicks_enc1 (n : Nat) (s : State) : (s.withSlowTicks n).enc1 = s.enc1 := rfl
@[simp] theorem withSlowTicks_enc2 (n : Nat) (s : State) : (s.withSlowTicks n).enc2 = s.enc2 := rfl
@[simp] theorem withSlowTicks_connected (n : Nat) (s : State) : (s.withSlowTicks n).connected = s.connected := rfl
@[simp] theorem withSlowTicks_handshakePending (n : Nat) (s : State) : (s.withSlowTicks n).handshakePending = s.handshakePending := rfl
@[simp] theorem withSlowTicks_rxBuf (n : Nat) (s : State) : (s.withSlowTicks n).rxBuf = s.rxBuf := rfl
@[simp] theorem withSlowTicks_rxLen (n : Nat) (s : State) : (s.withSlowTicks n).rxLen = s.rxLen := rfl
@[simp] theorem withSlowTicks_slowTicksElapsed (n : Nat) (s : State) : (s.withSlowTicks n).slowTicksElapsed = n := rfl
@[simp] theorem withSlowTicks_out1 (n : Nat) (s : State) : (s.withSlowTicks n).out1 = s.out1 := rfl
@[simp] theorem withSlowTicks_out2 (n : Nat) (s : State) : (s.withSlowTicks n).out2 = s.out2 := rfl
@[simp] theorem withSlowTicks_tx (n : Nat) (s : State) : (s.withSlowTicks n).tx = s.tx := rfl
@[simp] theorem withSlowTicks_halted (n : Nat) (s : State) : (s.withSlowTicks n).halted = s.halted := rfl
@[simp] theorem withSlowTicks_params (n : Nat) (s : State) : (s.withSlowTicks n).params = s.params := rfl
@[simp] theorem withSlowTicks_arrivals (n : Nat) (s : State) : (s.withSlowTicks n).arrivals = s.arrivals := rfl
@[simp] theorem withSlowTicks_nanDraws (n : Nat) (s : State) : (s.withSlowTicks n).nanDraws = s.nanDraws := rfl

@[simp] theorem drawNaNs_enc1 (s : State) : (s.drawNaNs).enc1 = s.enc1 := rfl
@[simp] theorem drawNaNs_enc2 (s : State) : (s.drawNaNs).enc2 = s.enc2 := rfl
@[simp] theorem drawNaNs_connected (s : State) : (s.drawNaNs).connected = s.connected := rfl
@[simp] theorem drawNaNs_handshakePending (s : State) : (s.drawNaNs).handshakePending = s.handshakePending := rfl
@[simp] theorem drawNaNs_rxBuf (s : State) : (s.drawNaNs).rxBuf = s.rxBuf := rfl
@[simp] theorem drawNaNs_rxLen (s : State) : (s.drawNaNs).rxLen = s.rxLen := rfl
@[simp] theorem drawNaNs_slowTicksElapsed (s : State) : (s.drawNaNs).slowTicksElapsed = s.slowTicksElapsed := rfl
@[simp] theorem drawNaNs_out1 (s : State) : (s.drawNaNs).out1 = s.out1 := rfl
@[simp] theorem drawNaNs_out2 (s : State) : (s.drawNaNs).out2 = s.out2 := rfl
@[simp] theorem drawNaNs_tx (s : State) : (s.drawNaNs).tx = s.tx := rfl
@[simp] theorem drawNaNs_halted (s : State) : (s.drawNaNs).halted = s.halted := rfl
@[simp] theorem drawNaNs_params (s : State) : (s.drawNaNs).params = s.params := rfl
@[simp] theorem drawNaNs_arrivals (s : State) : (s.drawNaNs).arrivals = s.arrivals := rfl
@[simp] theorem drawNaNs_nanDraws (s : State) : (s.drawNaNs).nanDraws = s.nanDraws + 2 := rfl

@[simp] theorem onEnc_one_enc1 (f : Encoder → Encoder) (s : State) : (s.onEnc .one f).enc1 = f s.enc1 := rfl
@[simp] theorem onEnc_one_enc2 (f : Encoder → Encoder) (s : State) : (s.onEnc .one f).enc2 = s.enc2 := rfl
@[simp] theorem onEnc_one_connected (f : Encoder → Encoder) (s : State) : (s.onEnc .one f).connected = s.connected := rfl
@[simp] theorem onEnc_one_handshakePending (f : Encoder → Encoder) (s : State) : (s.onEnc .one f).handshakePending = s.handshakePending := rfl
@[simp] theorem onEnc_one_rxBuf (f : Encoder → Encoder) (s : State) : (s.onEnc .one f).rxBuf = s.rxBuf := rfl
@[simp] theorem onEnc_one_rxLen (f : Encoder → Encoder) (s : State) : (s.onEnc .one f).rxLen = s.rxLen := rfl
@[simp] theorem onEnc_one_slowTicksElapsed (f : Encoder → Encoder) (s : State) : (s.onEnc .one f).slowTicksElapsed = s.slowTicksElapsed := rfl
@[simp] theorem onEnc_one_out1 (f : Encoder → Encoder) (s : State) : (s.onEnc .one f).out1 = s.out1 := rfl
@[simp] theorem onEnc_one_out2 (f : Encoder → Encoder) (s : State) : (s.onEnc .one f).out2 = s.out2 := rfl
@[simp] theorem onEnc_one_tx (f : Encoder → Encoder) (s : State) : (s.onEnc .one f).tx = s.tx := rfl
@[simp] theorem onEnc_one_halted (f : Encoder → Encoder) (s : State) : (s.onEnc .one f).halted = s.halted := rfl
@[simp] theorem onEnc_one_params (f : Encoder → Encoder) (s : State) : (s.onEnc .one f).params = s.params := rfl
@[simp] theorem onEnc_one_arrivals (f : Encoder → Encoder) (s : State) : (s.onEnc .one f).arrivals = s.arrivals := rfl
@[simp] theorem onEnc_one_nanDraws (f : Encoder → Encoder) (s : State) : (s.onEnc .one f).nanDraws = s.nanDraws := rfl

@[simp] theorem sinkWrite_one_enc1 (ch : Channel) (v : Bool) (s : State) : (s.sinkWrite .one ch v).enc1 = s.enc1 := rfl
@[simp] theorem sinkWrite_one_enc2 (ch : Channel) (v : Bool) (s : State) : (s.sinkWrite .one ch v).enc2 = s.enc2 := rfl
@[simp] theorem sinkWrite_one_connected (ch : Channel) (v : Bool) (s : State) : (s.sinkWrite .one ch v).connected = s.connected := rfl
@[simp] theorem sinkWrite_one_handshakePending (ch : Channel) (v : Bool) (s : State) : (s.sinkWrite .one ch v).handshakePending = s.handshakePending := rfl
@[simp] theorem sinkWrite_one_rxBuf (ch : Channel) (v : Bool) (s : State) : (s.sinkWrite .one ch v).rxBuf = s.rxBuf := rfl
@[simp] theorem sinkWrite_one_rxLen (ch : Channel) (v : Bool) (s : State) : (s.sinkWrite .one ch v).rxLen = s.rxLen := rfl
@[simp] theorem sinkWrite_one_slowTicksElapsed (ch : Channel) (v : Bool) (s : State) : (s.sinkWrite .one ch v).slowTicksElapsed = s.slowTicksElapsed := rfl
@[simp] theorem sinkWrite_one_out1 (ch : Channel) (v : Bool) (s : State) : (s.sinkWrite .one ch v).out1 = setLevel ch v s.out1 := rfl
@[simp] theorem sinkWrite_one_out2 (ch : Channel) (v : Bool) (s : State) : (s.sinkWrite .one ch v).out2 = s.out2 := rfl
@[simp] theorem sinkWrite_one_tx (ch : Channel) (v : Bool) (s : State) : (s.sinkWrite .one ch v).tx = s.tx := rfl
@[simp] theorem sinkWrite_one_halted (ch : Channel) (v : Bool) (s : State) : (s.sinkWrite .one ch v).halted = s.halted := rfl
@[simp] theorem sinkWrite_one_params (ch : Channel) (v : Bool) (s : State) : (s.sinkWrite .one ch v).params = s.params := rfl
@[simp] theorem sinkWrite_one_arrivals (ch : Channel) (v : Bool) (s : State) : (s.sinkWrite .one ch v).arrivals = s.arrivals := rfl
@[simp] theorem sinkWrite_one_nanDraws (ch : Channel) (v : Bool) (s : State) : (s.sinkWrite .one ch v).nanDraws = s.nanDraws := rfl

@[simp] theorem onEnc_two_enc1 (f : Encoder → Encoder) (s : State) : (s.onEnc .two f).enc1 = s.enc1 := rfl
@[simp] theorem onEnc_two_enc2 (f : Encoder → Encoder) (s : State) : (s.onEnc .two f).enc2 = f s.enc2 := rfl
@[simp] theorem onEnc_two_connected (f : Encoder → Encoder) (s : State) : (s.onEnc .two f).connected = s.connected := rfl
@[simp] theorem onEnc_two_handshakePending (f : Encoder → Encoder) (s : State) : (s.onEnc .two f).handshakePending = s.handshakePending := rfl
@[simp] theorem onEnc_two_rxBuf (f : Encoder → Encoder) (s : State) : (s.onEnc .two f).rxBuf = s.rxBuf := rfl
@[simp] theorem onEnc_two_rxLen (f : Encoder → Encoder) (s : State) : (s.onEnc .two f).rxLen = s.rxLen := rfl
@[simp] theorem onEnc_two_slowTicksElapsed (f : Encoder → Encoder) (s : State) : (s.onEnc .two f).slowTicksElapsed = s.slowTicksElapsed := rfl
@[simp] theorem onEnc_two_out1 (f : Encoder → Encoder) (s : State) : (s.onEnc .two f).out1 = s.out1 := rfl
@[simp] theorem onEnc_two_out2 (f : Encoder → Encoder) (s : State) : (s.onEnc .two f).out2 = s.out2 := rfl
@[simp] theorem onEnc_two_tx (f : Encoder → Encoder) (s : State) : (s.onEnc .two f).tx = s.tx := rfl
@[simp] theorem onEnc_two_halted (f : Encoder → Encoder) (s : State) : (s.onEnc .two f).halted = s.halted := rfl
@[simp] theorem onEnc_two_params (f : Encoder → Encoder) (s : State) : (s.onEnc .two f).params = s.params := rfl
@[simp] theorem onEnc_two_arrivals (f : Encoder → Encoder) (s : State) : (s.onEnc .two f).arrivals = s.arrivals := rfl
@[simp] theorem onEnc_two_nanDraws (f : Encoder → Encoder) (s : State) : (s.onEnc .two f).nanDraws = s.nanDraws := rfl

@[simp] theorem sinkWrite_two_enc1 (ch : Channel) (v : Bool) (s : State) : (s.sinkWrite .two ch v).enc1 = s.enc1 := rfl
@[simp] theorem sinkWrite_two_enc2 (ch : Channel) (v : Bool) (s : State) : (s.sinkWrite .two ch v).enc2 = s.enc2 := rfl
@[simp] theorem sinkWrite_two_connected (ch : Channel) (v : Bool) (s : State) : (s.sinkWrite .two ch v).connected = s.connected := rfl
@[simp] theorem sinkWrite_two_handshakePending (ch : Channel) (v : Bool) (s : State) : (s.sinkWrite .two ch v).handshakePending = s.handshakePending := rfl
@[simp] theorem sinkWrite_two_rxBuf (ch : Channel) (v : Bool) (s : State) : (s.sinkWrite .two ch v).rxBuf = s.rxBuf := rfl
@[simp] theorem sinkWrite_two_rxLen (ch : Channel) (v : Bool) (s : State) : (s.sinkWrite .two ch v).rxLen = s.rxLen := rfl
@[simp] theorem sinkWrite_two_slowTicksElapsed (ch : Channel) (v : Bool) (s : State) : (s.sinkWrite .two ch v).slowTicksElapsed = s.slowTicksElapsed := rfl
@[simp] theorem sinkWrite_two_out1 (ch : Channel) (v : Bool) (s : State) : (s.sinkWrite .two ch v).out1 = s.out1 := rfl
@[simp] theorem sinkWrite_two_out2 (ch : Channel) (v : Bool) (s : State) : (s.sinkWrite .two ch v).out2 = setLevel ch v s.out2 := rfl
@[simp] theorem sinkWrite_two_tx (ch : Channel) (v : Bool) (s : State) : (s.sinkWrite .two ch v).tx = s.tx := rfl
@[simp] theorem sinkWrite_two_halted (ch : Channel) (v : Bool) (s : State) : (s.sinkWrite .two ch v).halted = s.halted := rfl
@[simp] theorem sinkWrite_two_params (ch : Channel) (v : Bool) (s : State) : (s.sinkWrite .two ch v).params = s.params := rfl
@[simp] theorem sinkWrite_two_arrivals (ch : Channel) (v : Bool) (s : State) : (s.sinkWrite .two ch v).arrivals = s.arrivals := rfl
@[simp] theorem sinkWrite_two_nanDraws (ch : Channel) (v : Bool) (s : State) : (s.sinkWrite .two ch v).nanDraws = s.nanDraws := rfl

@[simp] theorem enc_one (s : State) : s.enc .one = s.enc1 := rfl
@[simp] theorem enc_two (s : State) : s.enc .two = s.enc2 := rfl
@[simp] theorem out_one (s : State) : s.out .one = s.out1 := rfl
@[simp] theorem out_two (s : State) : s.out .two = s.out2 := rfl
@[simp] theorem setLevel_a (v : Bool) (l : Levels) : setLevel .a v l = ⟨v, l.b⟩ := rfl
@[simp] theorem setLevel_b (v : Bool) (l : Levels) : setLevel .b v l = ⟨l.a, v⟩ := rfl
@[simp] theorem requestResponse_eq (s : State) : s.requestResponse = s.withHandshake true := rfl

/-- Two states are equal when every field is. -/
theorem ext_fields {s t : State} (h1 : s.enc1 = t.enc1) (h2 : s.enc2 = t.enc2) (h3 : s.connected = t.connected)
    (h4 : s.handshakePending = t.handshakePending) (h5 : s.rxBuf = t.rxBuf) (h6 : s.rxLen = t.rxLen)
    (h7 : s.slowTicksElapsed = t.slowTicksElapsed) (h8 : s.out1 = t.out1) (h9 : s.out2 = t.out2) (h10 : s.tx = t.tx)
    (h11 : s.halted = t.halted) (h12 : s.params = t.params) (h13 : s.arrivals = t.arrivals)
    (h14 : s.nanDraws = t.nanDraws) : s = t := by
  cases s; cases t; simp_all

end State
end Machine
end Sys2Proof
end

