-- ==== Sys2Proof/Laws/Ops.lean ====
section
/-! SUPPORT. One lemma for each shared operation that says once what it can do: `send_response`, the two parts of a tick,
the tick, the meanings, `RxByte` and the step. -/

namespace Sys2Proof
namespace Machine
namespace State

/-! ### send_response (R164): it writes `tx`, `handshake_pending` and the NaN counter, and nothing else. -/

@[simp] theorem sendResponse_enc1 (s : State) : s.sendResponse.enc1 = s.enc1 := by
  unfold sendResponse; split <;> simp
@[simp] theorem sendResponse_enc2 (s : State) : s.sendResponse.enc2 = s.enc2 := by
  unfold sendResponse; split <;> simp
@[simp] theorem sendResponse_connected (s : State) : s.sendResponse.connected = s.connected := by
  unfold sendResponse; split <;> simp
@[simp] theorem sendResponse_rxBuf (s : State) : s.sendResponse.rxBuf = s.rxBuf := by
  unfold sendResponse; split <;> simp
@[simp] theorem sendResponse_rxLen (s : State) : s.sendResponse.rxLen = s.rxLen := by
  unfold sendResponse; split <;> simp
@[simp] theorem sendResponse_slowTicksElapsed (s : State) : s.sendResponse.slowTicksElapsed = s.slowTicksElapsed := by
  unfold sendResponse; split <;> simp
@[simp] theorem sendResponse_out1 (s : State) : s.sendResponse.out1 = s.out1 := by
  unfold sendResponse; split <;> simp
@[simp] theorem sendResponse_out2 (s : State) : s.sendResponse.out2 = s.out2 := by
  unfold sendResponse; split <;> simp
@[simp] theorem sendResponse_halted (s : State) : s.sendResponse.halted = s.halted := by
  unfold sendResponse; split <;> simp
@[simp] theorem sendResponse_params (s : State) : s.sendResponse.params = s.params := by
  unfold sendResponse; split <;> simp
@[simp] theorem sendResponse_arrivals (s : State) : s.sendResponse.arrivals = s.arrivals := by
  unfold sendResponse; split <;> simp

theorem sendResponse_tx (s : State) :
    s.sendResponse.tx = if s.responseOwed then s.tx ++ encode s.responseTelegram else s.tx := by
  unfold sendResponse; split <;> simp

theorem sendResponse_handshake (s : State) :
    s.sendResponse.handshakePending = if s.responseOwed then false else s.handshakePending := by
  unfold sendResponse; split <;> simp

theorem sendResponse_nanDraws (s : State) :
    s.sendResponse.nanDraws = if s.responseOwed then s.nanDraws + 2 else s.nanDraws := by
  unfold sendResponse; split <;> simp

/-- R9: SLOW_PERIOD_TICKS is at least 1 in every configuration. -/
theorem one_le_slowPeriodTicks (p : Params) : 1 ≤ p.slowPeriodTicks := by
  have h := p.admitted
  simp only [admittedDt, Bool.and_eq_true, decide_eq_true_eq] at h
  exact h.2

/-- R191: the slow tick is the one at which the counter is SLOW_PERIOD_TICKS - 1. -/
theorem slowTickDue_iff (s : State) : s.slowTickDue = true ↔ s.slowTicksElapsed = s.params.slowPeriodTicks - 1 := by
  have h := one_le_slowPeriodTicks s.params
  simp only [slowTickDue, decide_eq_true_eq]
  omega

/-! ### Step 1 of a tick (R190, R191). -/

@[simp] theorem slowPart_connected (s : State) : s.slowPart.connected = s.connected := by
  unfold slowPart; split <;> simp
@[simp] theorem slowPart_rxBuf (s : State) : s.slowPart.rxBuf = s.rxBuf := by
  unfold slowPart; split <;> simp
@[simp] theorem slowPart_rxLen (s : State) : s.slowPart.rxLen = s.rxLen := by
  unfold slowPart; split <;> simp
@[simp] theorem slowPart_out1 (s : State) : s.slowPart.out1 = s.out1 := by
  unfold slowPart; split <;> simp
@[simp] theorem slowPart_out2 (s : State) : s.slowPart.out2 = s.out2 := by
  unfold slowPart; split <;> simp
@[simp] theorem slowPart_halted (s : State) : s.slowPart.halted = s.halted := by
  unfold slowPart; split <;> simp
@[simp] theorem slowPart_params (s : State) : s.slowPart.params = s.params := by
  unfold slowPart; split <;> simp
@[simp] theorem slowPart_arrivals (s : State) : s.slowPart.arrivals = s.arrivals := by
  unfold slowPart; split <;> simp

theorem slowPart_slowTicks (s : State) :
    s.slowPart.slowTicksElapsed = if s.slowTickDue then 0 else s.slowTicksElapsed + 1 := by
  unfold slowPart; split <;> simp

theorem slowPart_enc1 (s : State) : s.slowPart.enc1 = if s.slowTickDue then s.enc1.clearCount else s.enc1 := by
  unfold slowPart; split <;> simp

theorem slowPart_enc2 (s : State) : s.slowPart.enc2 = if s.slowTickDue then s.enc2.clearCount else s.enc2 := by
  unfold slowPart; split <;> simp

theorem slowPart_tx (s : State) :
    s.slowPart.tx = if s.slowTickDue && s.responseOwed then s.tx ++ encode s.responseTelegram else s.tx := by
  unfold slowPart; split <;> simp_all [sendResponse_tx]

theorem slowPart_handshake (s : State) :
    s.slowPart.handshakePending = if s.slowTickDue && s.responseOwed then false else s.handshakePending := by
  unfold slowPart; split <;> simp_all [sendResponse_handshake]

theorem slowPart_nanDraws (s : State) :
    s.slowPart.nanDraws = if s.slowTickDue && s.responseOwed then s.nanDraws + 2 else s.nanDraws := by
  unfold slowPart; split <;> simp_all [sendResponse_nanDraws]

/-! ### Step 2 of a tick (R192): it writes the two Encoders and the four outputs, and nothing else. -/

@[simp] theorem fastPart_connected (s : State) : s.fastPart.connected = s.connected := by
  unfold fastPart; split <;> simp [updateAxle, emulateAxle]
@[simp] theorem fastPart_handshakePending (s : State) : s.fastPart.handshakePending = s.handshakePending := by
  unfold fastPart; split <;> simp [updateAxle, emulateAxle]
@[simp] theorem fastPart_rxBuf (s : State) : s.fastPart.rxBuf = s.rxBuf := by
  unfold fastPart; split <;> simp [updateAxle, emulateAxle]
@[simp] theorem fastPart_rxLen (s : State) : s.fastPart.rxLen = s.rxLen := by
  unfold fastPart; split <;> simp [updateAxle, emulateAxle]
@[simp] theorem fastPart_slowTicksElapsed (s : State) : s.fastPart.slowTicksElapsed = s.slowTicksElapsed := by
  unfold fastPart; split <;> simp [updateAxle, emulateAxle]
@[simp] theorem fastPart_tx (s : State) : s.fastPart.tx = s.tx := by
  unfold fastPart; split <;> simp [updateAxle, emulateAxle]
@[simp] theorem fastPart_halted (s : State) : s.fastPart.halted = s.halted := by
  unfold fastPart; split <;> simp [updateAxle, emulateAxle]
@[simp] theorem fastPart_params (s : State) : s.fastPart.params = s.params := by
  unfold fastPart; split <;> simp [updateAxle, emulateAxle]
@[simp] theorem fastPart_arrivals (s : State) : s.fastPart.arrivals = s.arrivals := by
  unfold fastPart; split <;> simp [updateAxle, emulateAxle]
@[simp] theorem fastPart_nanDraws (s : State) : s.fastPart.nanDraws = s.nanDraws := by
  unfold fastPart; split <;> simp [updateAxle, emulateAxle]

/-- R192, R123: one axle's record after the fast part of a connected tick. -/
def advanced (dt : F64) (e : Encoder) : Encoder :=
  Encoder.decode (e.update dt).levelA (e.update dt).levelB (e.update dt)

/-- R123: the levels one axle's outputs are driven to by a connected tick. -/
def driven (dt : F64) (e : Encoder) : Levels := ⟨(e.update dt).levelA, (e.update dt).levelB⟩

theorem fastPart_enc1 (s : State) : s.fastPart.enc1 = if s.connected then advanced s.params.dt s.enc1 else s.enc1 := by
  unfold fastPart; split <;> simp [updateAxle, emulateAxle, advanced]

theorem fastPart_enc2 (s : State) : s.fastPart.enc2 = if s.connected then advanced s.params.dt s.enc2 else s.enc2 := by
  unfold fastPart; split <;> simp [updateAxle, emulateAxle, advanced]

theorem fastPart_out1 (s : State) : s.fastPart.out1 = if s.connected then driven s.params.dt s.enc1 else s.out1 := by
  unfold fastPart; split <;> simp [updateAxle, emulateAxle, driven]

theorem fastPart_out2 (s : State) : s.fastPart.out2 = if s.connected then driven s.params.dt s.enc2 else s.out2 := by
  unfold fastPart; split <;> simp [updateAxle, emulateAxle, driven]

/-! ### The tick (R190). -/

@[simp] theorem onTick_connected (s : State) : s.onTick.connected = s.connected := by simp [onTick]
@[simp] theorem onTick_rxBuf (s : State) : s.onTick.rxBuf = s.rxBuf := by simp [onTick]
@[simp] theorem onTick_rxLen (s : State) : s.onTick.rxLen = s.rxLen := by simp [onTick]
@[simp] theorem onTick_halted (s : State) : s.onTick.halted = s.halted := by simp [onTick]
@[simp] theorem onTick_params (s : State) : s.onTick.params = s.params := by simp [onTick]
@[simp] theorem onTick_arrivals (s : State) : s.onTick.arrivals = s.arrivals := by simp [onTick]

/-- R190, R191: the record a tick's fast part starts from. -/
def entering (s : State) (e : Encoder) : Encoder := if s.slowTickDue then e.clearCount else e

theorem onTick_enc1 (s : State) :
    s.onTick.enc1 = if s.connected then advanced s.params.dt (s.entering s.enc1) else s.entering s.enc1 := by
  simp [onTick, fastPart_enc1, slowPart_enc1, entering]

theorem onTick_enc2 (s : State) :
    s.onTick.enc2 = if s.connected then advanced s.params.dt (s.entering s.enc2) else s.entering s.enc2 := by
  simp [onTick, fastPart_enc2, slowPart_enc2, entering]

theorem onTick_out1 (s : State) :
    s.onTick.out1 = if s.connected then driven s.params.dt (s.entering s.enc1) else s.out1 := by
  simp [onTick, fastPart_out1, slowPart_enc1, entering]

theorem onTick_out2 (s : State) :
    s.onTick.out2 = if s.connected then driven s.params.dt (s.entering s.enc2) else s.out2 := by
  simp [onTick, fastPart_out2, slowPart_enc2, entering]

theorem onTick_slowTicks (s : State) :
    s.onTick.slowTicksElapsed = if s.slowTickDue then 0 else s.slowTicksElapsed + 1 := by
  simp [onTick, slowPart_slowTicks]

theorem onTick_tx (s : State) :
    s.onTick.tx = if s.slowTickDue && s.responseOwed then s.tx ++ encode s.responseTelegram else s.tx := by
  simp [onTick, slowPart_tx]

theorem onTick_handshake (s : State) :
    s.onTick.handshakePending = if s.slowTickDue && s.responseOwed then false else s.handshakePending := by
  simp [onTick, slowPart_handshake]

theorem onTick_nanDraws (s : State) :
    s.onTick.nanDraws = if s.slowTickDue && s.responseOwed then s.nanDraws + 2 else s.nanDraws := by
  simp [onTick, slowPart_nanDraws]

end State

/-! ### The meanings: what the processing of a telegram leaves alone, whatever the telegram. -/

/-- The fields no telegram's processing writes; `tx` and the NaN counter are RESPONSE's. -/
structure SameOutside (s t : State) : Prop where
  rxBuf : t.rxBuf = s.rxBuf
  rxLen : t.rxLen = s.rxLen
  slowTicks : t.slowTicksElapsed = s.slowTicksElapsed
  out1 : t.out1 = s.out1
  out2 : t.out2 = s.out2
  halted : t.halted = s.halted
  params : t.params = s.params
  arrivals : t.arrivals = s.arrivals

theorem exec_sameOutside {i : Instr} {s t : State} (h : exec i s = .next t) : SameOutside s t := by
  cases i <;> simp only [exec, execConnect, execNop, execSetv1, execSetv2, execSetvb, execSeta1, execSeta2, execSetab,
    execDisconnect, execStop, execRsvd, execResponse, processConnect, Host.Outcome.next.injEq] at h <;>
    subst h <;> (try split) <;> constructor <;> simp

/-- R46: only RESPONSE sends. -/
theorem exec_tx {i : Instr} {s t : State} (h : exec i s = .next t) (hi : i.format ≠ .response) :
    t.tx = s.tx ∧ t.nanDraws = s.nanDraws := by
  cases i <;> simp only [exec, execConnect, execNop, execSetv1, execSetv2, execSetvb, execSeta1, execSeta2, execSetab,
    execDisconnect, execStop, execRsvd, execResponse, processConnect, Host.Outcome.next.injEq] at h <;>
    first
    | exact absurd rfl hi
    | (subst h; (try split) <;> constructor <;> simp)

/-- R94: a received telegram is a CONNECT or an OPERATION, never a RESPONSE. -/
theorem decodeBuffer_format (c : Bool) (buf : Vector Byte 14) :
    (decodeBuffer c buf).format = if c then .operation else .connect := by
  cases c
  · rfl
  · simp only [decodeBuffer, decodeOperation, operationOf, if_true]
    split <;> rfl

/-! ### RxByte and the step. -/

/-- What `RxByte(b)` can do (R150): fault outside `rx_len` 0 to 13, process the telegram the byte completes, or buffer. -/
theorem rxByte_cases (b : Byte) (s : State) :
    (14 ≤ s.rxLen ∧ s.rxByte b = .fault .rxOverrun) ∨
    (s.rxLen < 14 ∧ s.rxLen + 1 = s.need ∧
      s.rxByte b = State.afterTelegram (exec (s.rxPut b).fetchTelegram (s.rxPut b))) ∨
    (s.rxLen < 14 ∧ s.rxLen + 1 ≠ s.need ∧ s.rxByte b = .next (s.rxPut b)) := by
  unfold State.rxByte
  by_cases h : Config.lenOperation ≤ s.rxLen
  · exact .inl ⟨h, if_pos h⟩
  · have h' : s.rxLen < 14 := Nat.lt_of_not_le h
    by_cases hn : s.rxLen + 1 = s.need
    · exact .inr (.inl ⟨h', hn, by rw [if_neg h, if_pos hn]⟩)
    · exact .inr (.inr ⟨h', hn, by rw [if_neg h, if_neg hn]⟩)

/-- What a step that goes on can do: tick, buffer a byte, or process the telegram a byte completes. -/
theorem step_next_cases {s t : State} (h : step s = .next t) :
    s.halted = false ∧
    ((s.arrivals = [] ∧ t = s.onTick) ∨
     (∃ rest, s.arrivals = .tick :: rest ∧ t = (s.withArrivals rest).onTick) ∨
     (∃ b rest, s.arrivals = .rxByte b :: rest ∧ s.rxLen < 14 ∧ s.rxLen + 1 ≠ s.need ∧
        t = (s.withArrivals rest).rxPut b) ∨
     (∃ b rest u, s.arrivals = .rxByte b :: rest ∧ s.rxLen < 14 ∧ s.rxLen + 1 = s.need ∧
        exec ((s.withArrivals rest).rxPut b).fetchTelegram ((s.withArrivals rest).rxPut b) = .next u ∧ t = u.rxDone)) := by
  unfold step at h
  cases hh : s.halted with
  | true => simp [hh] at h
  | false =>
    refine ⟨rfl, ?_⟩
    simp only [hh, Bool.false_eq_true, if_false] at h
    match ha : s.arrivals with
    | [] => simp only [ha] at h; exact .inl ⟨rfl, by simpa using h.symm⟩
    | .tick :: rest => simp only [ha] at h; exact .inr (.inl ⟨rest, rfl, by simpa using h.symm⟩)
    | .rxByte b :: rest =>
      simp only [ha] at h
      rcases rxByte_cases b (s.withArrivals rest) with ⟨_, he⟩ | ⟨h1, h2, he⟩ | ⟨h1, h2, he⟩
      · rw [he] at h; cases h
      · rw [he] at h
        unfold State.afterTelegram at h
        split at h
        · rename_i u hu
          exact .inr (.inr (.inr ⟨b, rest, u, rfl, h1, h2, hu, by simpa using h.symm⟩))
        · cases h
        · cases h
      · rw [he] at h
        exact .inr (.inr (.inl ⟨b, rest, rfl, h1, h2, by simpa using h.symm⟩))

end Machine
end Sys2Proof
end

