-- ==== Sys2Proof/Laws/PerInstr.lean ====
section
/-! SUPPORT. Facts stated per instruction: the length of a telegram is its format's (R90). -/

namespace Sys2Proof
namespace Laws
namespace EncodedLength

/-- R90: the bytes of a telegram are as many as its format's one length. -/
def Statement (i : Instr) : Prop := (encode i).length = i.format.length

theorem connect (d : Word32) (p q : Half) : Statement (.connect d p q) := rfl
theorem nop (p : Payload) : Statement (.nop p) := rfl
theorem setv1 (p : Payload) : Statement (.setv1 p) := rfl
theorem setv2 (p : Payload) : Statement (.setv2 p) := rfl
theorem setvb (p : Payload) : Statement (.setvb p) := rfl
theorem seta1 (p : Payload) : Statement (.seta1 p) := rfl
theorem seta2 (p : Payload) : Statement (.seta2 p) := rfl
theorem setab (p : Payload) : Statement (.setab p) := rfl
theorem disconnect (p : Payload) : Statement (.disconnect p) := rfl
theorem stop (p : Payload) : Statement (.stop p) := rfl
theorem rsvd (id : Byte) (p : Payload) : Statement (.rsvd id p) := rfl
theorem response (v1 v2 : Word32) (c1 c2 : Half) : Statement (.response v1 v2 c1 c2) := rfl

end EncodedLength
end Laws
end Sys2Proof
end

