-- ==== Sys2Proof/Laws/Step.lean ====
section
/-! SUPPORT. The step in the terms of Safety.lean: what it does when a tick is next, and the three things a step that goes
on can be. -/

namespace Sys2Proof
namespace Machine

/-- R190: when a tick is next, the step is the tick, and it always goes on. -/
theorem step_of_tickNext {s : State} (h : s.TickNext) : step s = .next (s.withArrivals s.arrivals.tail).onTick := by
  obtain ⟨hh, h⟩ := h
  unfold step
  rw [hh]
  simp only [Bool.false_eq_true, if_false]
  rcases h with h | h
  · have hs : s.withArrivals s.arrivals.tail = s := by
      apply State.ext_fields <;> simp [h]
    rw [hs, h]
  · match ha : s.arrivals, h with
    | .tick :: rest, _ => rfl

/-- R191 in the terms of Safety.lean. -/
theorem slowDue_iff (s : State) : s.SlowDue ↔ s.slowTickDue = true := (State.slowTickDue_iff s).symm

/-- A byte and a tick are not both next. -/
theorem not_tickNext_of_byteNext {s : State} {b : Byte} {rest : List Event} (h : s.ByteNext b rest) : ¬ s.TickNext := by
  rintro ⟨_, h'⟩
  have ha := h.2.1
  rcases h' with h' | h' <;> simp_all

/-- R16, R150, R190: a step that goes on is a tick, a byte that completes nothing, or a byte that completes a telegram. -/
theorem step_inversion {s t : State} (h : step s = .next t) :
    (s.TickNext ∧ t = (s.withArrivals s.arrivals.tail).onTick) ∨
    (∃ b rest, s.ByteNext b rest ∧ s.rxLen + 1 ≠ s.need ∧ t = (s.withArrivals rest).rxPut b) ∨
    (∃ b rest u, s.ByteNext b rest ∧ s.rxLen + 1 = s.need ∧
      exec ((s.withArrivals rest).rxPut b).fetchTelegram ((s.withArrivals rest).rxPut b) = .next u ∧ t = u.rxDone) := by
  obtain ⟨hh, h'⟩ := step_next_cases h
  rcases h' with ⟨ha, rfl⟩ | ⟨rest, ha, rfl⟩ | ⟨b, rest, ha, h1, h2, rfl⟩ | ⟨b, rest, u, ha, h1, h2, hu, rfl⟩
  · have ht : s.TickNext := ⟨hh, .inl ha⟩
    exact .inl ⟨ht, by rw [step_of_tickNext ht] at h; simpa using h.symm⟩
  · have ht : s.TickNext := ⟨hh, .inr (by rw [ha]; rfl)⟩
    exact .inl ⟨ht, by rw [step_of_tickNext ht] at h; simpa using h.symm⟩
  · exact .inr (.inl ⟨b, rest, ⟨hh, ha, h1⟩, h2, rfl⟩)
  · exact .inr (.inr ⟨b, rest, u, ⟨hh, ha, h1⟩, h2, hu, rfl⟩)

/-- A received telegram is never a RESPONSE. -/
theorem fetchTelegram_format (s : State) : s.fetchTelegram.format ≠ .response := by
  unfold State.fetchTelegram
  rw [decodeBuffer_format]
  split <;> decide

end Machine
end Sys2Proof
end

