-- ==== Sys2Proof/Tests/Slice0.lean ====
section
/-! SUPPORT. Tests. Every expected value is the spec's: a vector V<n> of spec/95_test_vectors.md, or a rule's own example,
named beside it; a decimal of the spec is written as the binary64 fields it stands for. `test_` theorems are
checks; `witness_` theorems show that the hypotheses of an obligation can be met. -/

namespace Sys2Proof
namespace Tests

open Sys2Proof.Machine

-- One theorem at a time: with a thread for each of the file's many proofs, their stacks pass the memory limit.
set_option Elab.async false

/-- The spec's test instantiation: after `Reset`, `DT = 2^-7`, hence `SLOW_PERIOD_TICKS = 6`. -/
def base : State := State.resetWith true {}

/-- A payload with the reserved bytes V6 gives. -/
def payload (a b : Word32) : Payload := ⟨a, b, 0xAA#8, 0xBB#8, 0xCC#8, 0xDD#8, 0xEE#8⟩

def zeros : Payload := ⟨0#32, 0#32, 0#8, 0#8, 0#8, 0#8, 0#8⟩

/-- The start state of V20 to V29: connected, nothing owed, velocities 1.0 and -1.0, accelerations 0.5 and -0.5. -/
def live : State :=
  { base with
    connected := true,
    enc1 := { base.enc1 with velocityMps := .fin false 1023 0, accelerationMps2 := .fin false 1022 0 },
    enc2 := { base.enc2 with velocityMps := .fin true 1023 0, accelerationMps2 := .fin true 1022 0 } }

/-- The step goes on and the next state passes the test. -/
def after (o : Host.Outcome State Fault Refusal) (test : State → Bool) : Bool :=
  match o with
  | .next t => test t
  | .fault _ => false
  | .refused _ => false

/-! ### WellFormed -/

theorem test_wellFormed_refuses_reserved_id_0x08 : (Instr.rsvd 0x08#8 zeros).wellFormed = false := by decide
theorem test_wellFormed_refuses_reserved_id_0x00 : (Instr.rsvd 0x00#8 zeros).wellFormed = false := by decide
theorem test_wellFormed_accepts_reserved_id_0x09 : (Instr.rsvd 0x09#8 zeros).wellFormed = true := by decide
theorem test_wellFormed_accepts_reserved_id_0xFF : (Instr.rsvd 0xFF#8 zeros).wellFormed = true := by decide

/-! ### Decoding: words written out from the spec -/

/-- V5. -/
theorem test_decode_connect : decode .connect [0x00#8, 0x00#8, 0xA0#8, 0x3F#8, 0x50#8, 0x00#8, 0x80#8, 0x00#8] =
    .ok (.connect 0x3FA00000#32 80#16 128#16) := by decide

/-- V26. -/
theorem test_decode_nop : decode .operation
    [0x00#8, 0x00#8, 0x00#8, 0x00#8, 0x00#8, 0x00#8, 0x00#8, 0x00#8, 0x00#8, 0x00#8, 0x00#8, 0x00#8, 0x00#8, 0x00#8] =
    .ok (.nop zeros) := by decide

/-- V6. -/
theorem test_decode_setv1 : decode .operation
    [0x00#8, 0x00#8, 0x80#8, 0x3E#8, 0x00#8, 0x00#8, 0x10#8, 0x41#8, 0x01#8, 0xAA#8, 0xBB#8, 0xCC#8, 0xDD#8, 0xEE#8] =
    .ok (.setv1 (payload 0x3E800000#32 0x41100000#32)) := by decide

/-- V21. -/
theorem test_decode_setv2 : decode .operation
    [0x00#8, 0x00#8, 0x00#8, 0x00#8, 0x00#8, 0x00#8, 0x40#8, 0xC0#8, 0x02#8, 0x00#8, 0x00#8, 0x00#8, 0x00#8, 0x00#8] =
    .ok (.setv2 { zeros with valB := 0xC0400000#32 }) := by decide

/-- V22. -/
theorem test_decode_setvb : decode .operation
    [0x00#8, 0x00#8, 0xA0#8, 0x40#8, 0x00#8, 0x00#8, 0x40#8, 0xC0#8, 0x03#8, 0x00#8, 0x00#8, 0x00#8, 0x00#8, 0x00#8] =
    .ok (.setvb { zeros with valA := 0x40A00000#32, valB := 0xC0400000#32 }) := by decide

/-- V23. -/
theorem test_decode_seta1 : decode .operation
    [0x00#8, 0x00#8, 0x00#8, 0x40#8, 0x00#8, 0x00#8, 0x00#8, 0x00#8, 0x04#8, 0x00#8, 0x00#8, 0x00#8, 0x00#8, 0x00#8] =
    .ok (.seta1 { zeros with valA := 0x40000000#32 }) := by decide

/-- V24. -/
theorem test_decode_seta2 : decode .operation
    [0x00#8, 0x00#8, 0x00#8, 0x00#8, 0x00#8, 0x00#8, 0xC0#8, 0xBF#8, 0x05#8, 0x00#8, 0x00#8, 0x00#8, 0x00#8, 0x00#8] =
    .ok (.seta2 { zeros with valB := 0xBFC00000#32 }) := by decide

/-- V25. -/
theorem test_decode_setab : decode .operation
    [0x00#8, 0x00#8, 0x00#8, 0x40#8, 0x00#8, 0x00#8, 0xC0#8, 0xBF#8, 0x06#8, 0x00#8, 0x00#8, 0x00#8, 0x00#8, 0x00#8] =
    .ok (.setab { zeros with valA := 0x40000000#32, valB := 0xBFC00000#32 }) := by decide

/-- V27. -/
theorem test_decode_disconnect : decode .operation
    [0x00#8, 0x00#8, 0x00#8, 0x00#8, 0x00#8, 0x00#8, 0x00#8, 0x00#8, 0x07#8, 0x00#8, 0x00#8, 0x00#8, 0x00#8, 0x00#8] =
    .ok (.disconnect zeros) := by decide

/-- V28. -/
theorem test_decode_stop : decode .operation
    [0x00#8, 0x00#8, 0x00#8, 0x00#8, 0x00#8, 0x00#8, 0x00#8, 0x00#8, 0x08#8, 0x00#8, 0x00#8, 0x00#8, 0x00#8, 0x00#8] =
    .ok (.stop zeros) := by decide

/-- V29. -/
theorem test_decode_rsvd : decode .operation
    [0x00#8, 0x00#8, 0x00#8, 0x00#8, 0x00#8, 0x00#8, 0x00#8, 0x00#8, 0xFF#8, 0x00#8, 0x00#8, 0x00#8, 0x00#8, 0x00#8] =
    .ok (.rsvd 0xFF#8 zeros) := by decide

/-- V8. -/
theorem test_decode_response : decode .response
    [0x00#8, 0x00#8, 0xA0#8, 0x40#8, 0x00#8, 0x00#8, 0x40#8, 0xC0#8, 0x07#8, 0x00#8, 0x00#8, 0x00#8, 0xDA#8] =
    .ok (.response 0x40A00000#32 0xC0400000#32 7#16 0#16) := by decide

/-- V29, the first reserved id. -/
theorem test_decode_rsvd_0x09 : decode .operation
    [0x00#8, 0x00#8, 0x00#8, 0x00#8, 0x00#8, 0x00#8, 0x00#8, 0x00#8, 0x09#8, 0x00#8, 0x00#8, 0x00#8, 0x00#8, 0x00#8] = .ok (.rsvd 0x09#8 zeros) := by decide

/-- R93: the trailer. -/
theorem test_decode_response_trailer : decode .response
    [0x00#8, 0x00#8, 0xA0#8, 0x40#8, 0x00#8, 0x00#8, 0x40#8, 0xC0#8, 0x07#8, 0x00#8, 0x00#8, 0x00#8, 0xDB#8] = .error (.wrongTrailer 0xDB#8) := by decide

/-! ### The numbering of the opcode table (R102) and the placed telegram -/

theorem test_table_connect : decodeTableWord 64 0x8000503FA00000 =
    some (.connect 0x3FA00000#32 80#16 128#16) := by decide
theorem test_table_response : decodeTableWord 104 0xDA00000007C040000040A00000 =
    some (.response 0x40A00000#32 0xC0400000#32 7#16 0#16) := by decide
theorem test_table_operation_rows :
    [0, 1, 2, 3, 4, 5, 6, 7, 8, 9].map (decodeTableWord 8) =
      [some (.nop zeros), some (.setv1 zeros), some (.setv2 zeros), some (.setvb zeros), some (.seta1 zeros),
       some (.seta2 zeros), some (.setab zeros), some (.disconnect zeros), some (.stop zeros),
       some (.rsvd 0x09#8 zeros)] := by decide

/-- V6 as a table word: byte 8 is bits 7 to 0. -/
theorem test_table_setv1_operands : decodeTableWord 112 0xEEDDCCBBAA411000003E80000001 =
    some (.setv1 (payload 0x3E800000#32 0x41100000#32)) := by decide

/-- The first step after reset runs the placed telegram: V10's CONNECT is accepted. -/
theorem test_placed_connect :
    after (step (State.reset.withFetchWord 64 0x6400643F800000))
      (fun t => t.connected && t.handshakePending && decide (t.rxLen = 0) &&
        decide (t.enc1.stepLengthM = (.fin false 1017 0x15BF9217271A))) = true := by decide +kernel

/-- The first step after reset runs the placed telegram: V22's SETVB. -/
theorem test_placed_setvb :
    after (step (State.reset.withFetchWord 112 0xC040000040A0000003))
      (fun t => decide (t.enc1.velocityMps = (.fin false 1025 0x4000000000000) ∧ t.enc2.velocityMps = (.fin true 1024 0x8000000000000) ∧ t.rxLen = 0) &&
        t.handshakePending) = true := by decide +kernel

/-- The first step after the RESPONSE of V8 is placed sends its 13 bytes. -/
theorem test_placed_response :
    after (step (base.withFetchWord 104 0xDA00000007C040000040A00000))
      (fun t => decide (t.tx = [0x00#8, 0x00#8, 0xA0#8, 0x40#8, 0x00#8, 0x00#8, 0x40#8, 0xC0#8, 0x07#8, 0x00#8, 0x00#8, 0x00#8, 0xDA#8]) && !t.handshakePending) = true := by
  decide +kernel

/-! ### CONNECT -/

/-- V12: step lengths 0.015707963502015858 and 0.009817477188759912. -/
theorem test_connect_V12 :
    after (exec (.connect 0x3F4CCCCD#32 80#16 128#16) base)
      (fun t => t.connected && decide (t.enc1.stepLengthM = (.fin false 1017 0x15BF961C96FE) ∧
        t.enc2.stepLengthM = (.fin false 1016 0x41B2F7BA3BCBE) ∧ t.enc1.ppr = 80#16 ∧ t.enc2.ppr = 128#16)) = true := by
  decide +kernel

/-- V13, V15, V16, V17, V18: rejected, and the `ppr` of the other axle is not written. -/
theorem test_connect_rejected :
    [Instr.connect 0x3F4CCCCC#32 100#16 100#16, .connect 0x3FA00001#32 100#16 100#16, .connect 0x3F800000#32 79#16 100#16,
     .connect 0x3F800000#32 100#16 129#16, .connect 0x7FC00000#32 100#16 100#16].all
      (fun i => after (exec i base)
        (fun t => !t.connected && t.handshakePending && decide (t.enc1 = base.enc1 ∧ t.enc2 = base.enc2))) = true := by
  decide +kernel

/-! ### OPERATION (V20 to V29c, from `live`) -/

/-- V26. -/
theorem test_nop :
    after (exec (.nop zeros) live)
      (fun t => t.handshakePending && decide (t.enc1 = live.enc1 ∧ t.enc2 = live.enc2)) = true := by decide +kernel

/-- V29c: slot a is used. -/
theorem test_setv1_V29c :
    after (exec (.setv1 { zeros with valB := 0x41100000#32 }) live)
      (fun t => t.handshakePending && decide (t.enc1.velocityMps = (.fin false 0 0x0) ∧ t.enc2 = live.enc2)) = true := by decide +kernel

/-- V29a: 200.0, above the bound, stored as given. -/
theorem test_setv1_V29a :
    after (exec (.setv1 { zeros with valA := 0x43480000#32 }) live)
      (fun t => decide (t.enc1.velocityMps = (.fin false 1030 0x9000000000000))) = true := by decide +kernel

/-- V21. -/
theorem test_setv2_V21 :
    after (exec (.setv2 { zeros with valA := 0x3F800000#32, valB := 0xC0400000#32 }) live)
      (fun t => decide (t.enc2.velocityMps = (.fin true 1024 0x8000000000000) ∧ t.enc1 = live.enc1 ∧ t.enc2.accelerationMps2 = (.fin true 1022 0x0))) = true := by decide +kernel

/-- V7: 0.10000000149011612 and 0.20000000298023224. -/
theorem test_setvb_V7 :
    after (exec (.setvb { zeros with valA := 0x3DCCCCCD#32, valB := 0x3E4CCCCD#32 }) live)
      (fun t => decide (t.enc1.velocityMps = (.fin false 1019 0x99999A0000000) ∧ t.enc2.velocityMps = (.fin false 1020 0x99999A0000000) ∧ t.enc1.accelerationMps2 = (.fin false 1022 0x0))) = true := by decide +kernel

/-- V23. -/
theorem test_seta1_V23 :
    after (exec (.seta1 { zeros with valA := 0x40000000#32 }) live)
      (fun t => decide (t.enc1.accelerationMps2 = (.fin false 1024 0x0) ∧ t.enc1.velocityMps = (.fin false 1023 0x0) ∧ t.enc2 = live.enc2)) = true := by decide +kernel

/-- V24. -/
theorem test_seta2_V24 :
    after (exec (.seta2 { zeros with valB := 0xBFC00000#32 }) live)
      (fun t => decide (t.enc2.accelerationMps2 = (.fin true 1023 0x8000000000000) ∧ t.enc2.velocityMps = (.fin true 1023 0x0) ∧ t.enc1 = live.enc1)) = true := by decide +kernel

/-- V25. -/
theorem test_setab_V25 :
    after (exec (.setab { zeros with valA := 0x40000000#32, valB := 0xBFC00000#32 }) live)
      (fun t => decide (t.enc1.accelerationMps2 = (.fin false 1024 0x0) ∧ t.enc2.accelerationMps2 = (.fin true 1023 0x8000000000000) ∧ t.enc1.velocityMps = (.fin false 1023 0x0))) = true := by decide +kernel

/-- V27, also when a RESPONSE was owed. -/
theorem test_disconnect_V27 :
    after (exec (.disconnect zeros) { live with handshakePending := true })
      (fun t => !t.connected && !t.handshakePending && decide (t.enc1 = base.enc1 ∧ t.enc2 = base.enc2)) = true := by
  decide +kernel

/-- V28. -/
theorem test_stop_V28 :
    after (exec (.stop zeros) { live with enc1 := { live.enc1 with pulseCount := 7#16, posA := (.fin false 1021 0x0) } })
      (fun t => t.connected && t.handshakePending && decide (t.enc1.velocityMps = (.fin false 0 0x0) ∧ t.enc2.velocityMps = (.fin false 0 0x0) ∧ t.enc1.accelerationMps2 = (.fin false 0 0x0) ∧
        t.enc2.accelerationMps2 = (.fin false 0 0x0) ∧ t.enc1.pulseCount = 7#16 ∧ t.enc1.posA = (.fin false 1021 0x0))) = true := by decide +kernel

/-- V29. -/
theorem test_rsvd_V29 :
    after (exec (.rsvd 0xFF#8 zeros) live)
      (fun t => t.handshakePending && decide (t.enc1 = live.enc1 ∧ t.enc2 = live.enc2)) = true := by decide +kernel

/-! ### RESPONSE and the Scheduler -/

/-- V9: 0.1, VELOCITY_MAX, 65535, 258. -/
theorem test_response_V9 :
    after (exec (.response 0#32 0#32 0#16 0#16)
        { live with
          handshakePending := true,
          enc1 := { live.enc1 with velocityMps := (.fin false 1019 0x999999999999A), pulseCount := 65535#16 },
          enc2 := { live.enc2 with velocityMps := Config.velocityMax, pulseCount := 258#16 } })
      (fun t => decide (t.tx = [0xCD#8, 0xCC#8, 0xCC#8, 0x3D#8, 0xC7#8, 0x71#8, 0x42#8, 0x43#8, 0xFF#8, 0xFF#8, 0x02#8, 0x01#8, 0xDA#8]) && !t.handshakePending) = true := by
  decide +kernel

/-- V76: minus zero is sent as minus zero. -/
theorem test_response_V76 :
    after (exec (.response 0#32 0#32 0#16 0#16)
        { live with
          handshakePending := true,
          enc1 := { live.enc1 with velocityMps := (.fin true 0 0x0) },
          enc2 := { live.enc2 with velocityMps := (.fin false 0 0x0) } })
      (fun t => decide (t.tx = [0x00#8, 0x00#8, 0x00#8, 0x80#8, 0x00#8, 0x00#8, 0x00#8, 0x00#8, 0x00#8, 0x00#8, 0x00#8, 0x00#8, 0xDA#8])) = true := by decide +kernel

/-- The state of V70: the slow tick is next, 5.0 and -3.0, counts 7 and 0, a RESPONSE owed. -/
def slow : State :=
  { base with
    connected := true, handshakePending := true, slowTicksElapsed := 5,
    enc1 := { base.enc1 with velocityMps := (.fin false 1025 0x4000000000000), pulseCount := 7#16 },
    enc2 := { base.enc2 with velocityMps := (.fin true 1024 0x8000000000000) } }

theorem test_tick_V70 :
    after (step slow)
      (fun t => decide (t.tx = [0x00#8, 0x00#8, 0xA0#8, 0x40#8, 0x00#8, 0x00#8, 0x40#8, 0xC0#8, 0x07#8, 0x00#8, 0x00#8, 0x00#8, 0xDA#8] ∧ t.slowTicksElapsed = 0 ∧
        t.enc1.pulseCount = 0#16 ∧ t.enc2.pulseCount = 0#16) && !t.handshakePending) = true := by decide +kernel

theorem test_tick_V71 :
    after (step { slow with slowTicksElapsed := 4 })
      (fun t => decide (t.tx = [] ∧ t.slowTicksElapsed = 5 ∧ t.enc1.pulseCount = 7#16) && t.handshakePending) = true := by
  decide +kernel

theorem test_tick_V72 :
    after (step { slow with handshakePending := false })
      (fun t => decide (t.tx = [] ∧ t.slowTicksElapsed = 0 ∧ t.enc1.pulseCount = 0#16) && !t.handshakePending) = true := by
  decide +kernel

theorem test_tick_V73 :
    after (step { base with handshakePending := true, slowTicksElapsed := 5 })
      (fun t => decide (t.tx = [] ∧ t.slowTicksElapsed = 0 ∧ t.enc1 = base.enc1 ∧ t.enc2 = base.enc2) &&
        t.handshakePending) = true := by decide +kernel

/-- V77: SLOW_PERIOD_TICKS of 0.03, 0.025, 2^-7 and 0.0001; 0.06 is refused. -/
theorem test_slowPeriodTicks_V77 :
    [(.fin false 1017 0xEB851EB851EB8), (.fin false 1017 0x999999999999A), (.fin false 1016 0x0), (.fin false 1009 0xA36E2EB1C432D)].map (slowPeriodTicksOf Config.slowResponsePeriod) =
        [1, 2, 6, 500] ∧
      admittedDt Config.slowResponsePeriod (.fin false 1018 0xEB851EB851EB8) = false := by decide +kernel

/-- V77: the tick period of a 72 MHz timer clock is 3.611111111111111e-05 s. -/
theorem test_tickPeriod_V77 :
    tickPeriodOf Config.prescaler Config.reload (F64.ofNat 72000000) = (.fin false 1008 0x2EEC05477F7A0) := by decide +kernel

/-! ### The Encoder Model -/

/-- The record `update` leaves, by its velocity and positions. -/
def moved (e : Encoder) (v a b : F64) : Bool :=
  let u := e.update (.fin false 1016 0)
  decide (u.velocityMps = v ∧ u.posA = a ∧ u.posB = b)

theorem test_update_V30 :
    moved { base.enc1 with velocityMps := (.fin false 1021 0x0) }
      (.fin false 1021 0x0) (.fin false 1014 0x0) (.fin true 1015 0x121FB54442D18) = true := by decide +kernel

theorem test_update_V33 :
    moved { base.enc1 with velocityMps := (.fin false 1030 0x8400000000000), accelerationMps2 := (.fin false 1029 0x0) }
      (.fin false 1030 0x84E38E38E38E4) (.fin false 1023 0x7E9B0F63D2830) (.fin false 1023 0x7D08EFAE8E403) = true := by decide +kernel

theorem test_update_V36 :
    moved { base.enc1 with velocityMps := (.fin false 1021 0x0), posA := (.fin false 1017 0x8000000000000) }
      (.fin false 1021 0x0) (.fin false 1012 0xBC095777A5D00) (.fin true 1015 0x5A9E8A554E178) = true := by decide +kernel

theorem test_update_V37 :
    moved { base.enc1 with velocityMps := (.fin true 1021 0x0), posA := (.fin true 1017 0x2000000000000) }
      (.fin true 1021 0x0) (.fin false 1015 0x487ED5110B460) (.fin true 1013 0x268380CCDE2E0) = true := by decide +kernel

theorem test_update_V38 :
    moved { base.enc1 with stepLengthM := (.fin false 1017 0x0), velocityMps := (.fin false 1023 0x0), posA := (.fin false 1017 0x8000000000000) }
      (.fin false 1023 0x0) (.fin false 0 0x0) (.fin true 1016 0x0) = true := by decide +kernel

theorem test_update_V39 :
    moved { base.enc1 with stepLengthM := (.fin false 1017 0x0), velocityMps := (.fin true 1023 0x0), posA := (.fin true 1017 0x0) }
      (.fin true 1023 0x0) (.fin false 1016 0x0) (.fin false 0 0x0) = true := by decide +kernel

/-- V35b: a NaN velocity. -/
theorem test_update_V35b : moved { base.enc1 with velocityMps := .nan } .nan .nan .nan = true := by decide +kernel

/-- V50 to V59 at duty 50: the high points, then the low ones. -/
theorem test_level_V50_to_V59 :
    [(.fin false 0 0x0), (.fin true 0 0x0), (.fin false 1016 0x921FB54442D17), (.fin true 1016 0x921FB54442D19), (.fin true 1017 0x921FB54442D18)].all
        (fun p => Encoder.level base.enc1 p 50) = true ∧
      [(.fin false 1016 0x921FB54442D18), (.fin true 993 0x12E0BE826D695), (.fin true 1016 0x921FB54442D18), (.fin false 1017 0x921FB54442D18), (.fin true 1017 0xEB851EB851EB8), .nan].any
        (fun p => Encoder.level base.enc1 p 50) = false := by decide +kernel

/-- V59e, V59a: at -0.6 s, duty 100 is high and duty 0 is low. -/
theorem test_level_V59 :
    Encoder.level base.enc1 (.fin true 1015 0xE28C731EB6950) 100 = true ∧
      Encoder.level base.enc1 (.fin true 1015 0xE28C731EB6950) 0 = false := by decide +kernel

/-- The state and count a decode step leaves. -/
def counted (q : QState) (n : Half) (a b : Bool) : QState × Half :=
  let e := Encoder.decode a b { base.enc1 with quadratureState := q, pulseCount := n }
  (e.quadratureState, e.pulseCount)

/-- V60 to V68. -/
theorem test_decode_V60_to_V68 :
    counted .unknown 0#16 true false = (.s10, 0#16) ∧ counted .unknown 0#16 false false = (.s00, 0#16) ∧
      counted .s10 7#16 true true = (.s11, 8#16) ∧ counted .s11 8#16 true true = (.s11, 8#16) ∧
      counted .s11 8#16 true false = (.s10, 9#16) ∧ counted .s00 3#16 true true = (.s11, 4#16) ∧
      counted .s10 65535#16 false false = (.s00, 0#16) ∧ counted .s01 0#16 false true = (.s01, 0#16) ∧
      counted .unknown 5#16 false true = (.s01, 5#16) := by decide +kernel

/-- V82, V83, V85: step lengths. -/
theorem test_stepLength_V82_V83_V85 :
    Encoder.stepLengthOf (.fin false 1022 0x99999A0000000) 128#16 = (.fin false 1016 0x41B2F7BA3BCBE) ∧
      Encoder.stepLengthOf (.fin false 1023 0x4000000000000) 80#16 = (.fin false 1017 0x921FB54442D18) ∧
      Encoder.stepLengthOf (.fin false 1023 0x0) 1#16 = (.fin false 1023 0x921FB54442D18) := by decide +kernel

/-! ### Witnesses: states and operands that meet the hypotheses of the obligations -/

/-- O1, every format. -/
theorem witness_DecodeOfEncodeIsIdentity :
    [Instr.connect 0#32 0#16 0xFFFF#16, .rsvd 0x09#8 zeros, .rsvd 0xFF#8 zeros, .stop (payload 0#32 0xFFFFFFFF#32),
     .response 0#32 0#32 0#16 0#16].all Instr.wellFormed = true := by decide

/-- O2, every format. -/
theorem witness_EncodeOfDecodeIsIdentity :
    decode .connect (encode (.connect 1#32 2#16 3#16)) = .ok (.connect 1#32 2#16 3#16) ∧
      decode .operation (encode (.rsvd 9#8 zeros)) = .ok (.rsvd 9#8 zeros) ∧
      decode .response (encode (.response 1#32 2#32 3#16 4#16)) = .ok (.response 1#32 2#32 3#16 4#16) := by decide

/-- O3: lengths on both sides of 8 and 14. -/
theorem witness_ReceivedBytesAlwaysDecode :
    (List.replicate 7 0#8).length ≠ 8 ∧ (List.replicate 13 0#8).length ≠ 14 ∧ (List.replicate 8 0#8).length = 8 ∧
      (List.replicate 14 0#8).length = 14 := by decide

/-- O6: the byte that completes a CONNECT, the one that completes an OPERATION, and the ones before them. -/
theorem witness_RxByteBuffersAndRunsCompleteTelegram :
    (∃ s : State, s.ByteNext 0#8 [] ∧ s.rxLen + 1 = (if s.connected then 14 else 8) ∧ s.connected = false) ∧
    (∃ s : State, s.ByteNext 0#8 [] ∧ s.rxLen + 1 = (if s.connected then 14 else 8) ∧ s.connected = true) ∧
    (∃ s : State, s.ByteNext 0#8 [] ∧ s.rxLen + 1 ≠ (if s.connected then 14 else 8) ∧ s.connected = false) ∧
    (∃ s : State, s.ByteNext 0#8 [] ∧ s.rxLen + 1 ≠ (if s.connected then 14 else 8) ∧ s.connected = true) :=
  ⟨⟨{ base with rxLen := 7, arrivals := [.rxByte 0#8] }, ⟨rfl, rfl, by decide⟩, rfl, rfl⟩,
   ⟨{ live with rxLen := 13, arrivals := [.rxByte 0#8] }, ⟨rfl, rfl, by decide⟩, rfl, rfl⟩,
   ⟨{ base with rxLen := 6, arrivals := [.rxByte 0#8] }, ⟨rfl, rfl, by decide⟩, by decide, rfl⟩,
   ⟨{ live with rxLen := 12, arrivals := [.rxByte 0#8] }, ⟨rfl, rfl, by decide⟩, by decide, rfl⟩⟩

/-- O7, O39: a halted block, and one that has a step. -/
theorem witness_HaltedBlockHasNoStep :
    (State.resetWith false {}).halted = true ∧ ∃ t, step base = .next t := ⟨rfl, _, rfl⟩

theorem configured_default : base.enc1.Configured :=
  ⟨rfl, rfl, rfl, by decide +kernel, by decide +kernel, rfl⟩

/-- O8, O36: the invariant has a state, and that state has a step. -/
theorem witness_EveryStepKeepsInvariant : base.Inv ∧ base.halted = false ∧ base.CanStep where
  left :=
    { rxLen := by decide, slowTicks := by decide +kernel, enc1 := configured_default, enc2 := configured_default,
      oneDiameter := rfl, atDefaults := fun _ => ⟨rfl, rfl⟩, counts := by decide, tracks1 := .inl rfl,
      tracks2 := .inl rfl, txWhole := rfl }
  right := ⟨rfl, _, rfl⟩

/-- O9, O10: accepted at both ends of every range, rejected just outside each. -/
theorem witness_ConnectConfiguresOrWritesOnlyHandshake :
    validConnect (f64OfF32 0x3F4CCCCD#32) 80#16 128#16 = true ∧ validConnect (f64OfF32 0x3FA00000#32) 128#16 80#16 = true ∧
      validConnect (f64OfF32 0x3F4CCCCC#32) 80#16 128#16 = false ∧
      validConnect (f64OfF32 0x3FA00001#32) 80#16 128#16 = false ∧
      validConnect (f64OfF32 0x3F800000#32) 79#16 128#16 = false ∧
      validConnect (f64OfF32 0x3F800000#32) 80#16 129#16 = false := by decide +kernel

/-- O11: the 14 bytes of V19c while `Disconnected`. -/
theorem witness_FourteenBytesWhileDisconnectedAreMisframed :
    ∃ (s : State) (bs : List Byte), s.halted = false ∧ s.connected = false ∧ s.rxLen = 0 ∧ bs.length = 14 ∧
      s.arrivals = bs.map .rxByte ++ [] ∧ decode .connect (bs.take 8) = .ok (.connect 0x3F800000#32 100#16 100#16) :=
  ⟨{ base with
      arrivals := [0x00#8, 0x00#8, 0x80#8, 0x3F#8, 0x64#8, 0x00#8, 0x64#8, 0x00#8, 0x03#8, 0#8, 0#8, 0#8, 0#8, 0#8].map
        .rxByte },
    [0x00#8, 0x00#8, 0x80#8, 0x3F#8, 0x64#8, 0x00#8, 0x64#8, 0x00#8, 0x03#8, 0#8, 0#8, 0#8, 0#8, 0#8],
    rfl, rfl, rfl, rfl, rfl, by decide⟩

/-- O17: a RESPONSE owed with numbers and with a NaN as velocity, and none owed. -/
theorem witness_ResponseSendsThirteenBytes :
    (slow.connected && slow.handshakePending) = true ∧ slow.enc1.velocityMps ≠ .nan ∧
      ((base.connected && base.handshakePending) = false) ∧
      ∃ s : State, (s.connected && s.handshakePending) = true ∧ s.enc1.velocityMps = .nan ∧ s.enc2.velocityMps = .nan :=
  ⟨rfl, by decide, rfl,
    { slow with enc1 := { slow.enc1 with velocityMps := .nan }, enc2 := { slow.enc2 with velocityMps := .nan } },
    rfl, rfl, rfl⟩

/-- O18: a meaning that goes on, of each format. -/
theorem witness_TelegramsWriteOnlyTheirFields :
    (∃ t, exec (.connect 0x3F800000#32 100#16 100#16) base = .next t) ∧ (∃ t, exec (.disconnect zeros) live = .next t) ∧
      (∃ t, exec (.setv1 zeros) live = .next t) ∧ (∃ t, exec (.nop zeros) live = .next t) ∧
      ∃ t, exec (.response 0#32 0#32 0#16 0#16) slow = .next t :=
  ⟨⟨_, rfl⟩, ⟨_, rfl⟩, ⟨_, rfl⟩, ⟨_, rfl⟩, ⟨_, rfl⟩⟩

/-- O21: records with a NaN velocity, acceleration and position. -/
theorem witness_NaNDrivesAxleLow :
    ∃ e f g : Encoder, e.velocityMps = .nan ∧ f.accelerationMps2 = .nan ∧ g.posA = .nan :=
  ⟨{ base.enc1 with velocityMps := .nan }, { base.enc1 with accelerationMps2 := .nan }, { base.enc1 with posA := .nan },
    rfl, rfl, rfl⟩

/-- O22: the defaults, and what the CONNECT with the largest step length leaves. -/
theorem witness_DefaultChannelWaveform :
    base.enc1.Configured ∧ (Encoder.configure Config.diameterMax 80#16 base.enc1).Configured :=
  ⟨configured_default, rfl, rfl, rfl, by decide, by decide +kernel, rfl⟩

/-- O24: no change, the first change out of `Unknown`, a counted change, the wrap. -/
theorem witness_DecodeCountsEveryChange :
    Encoder.mapped true true = .s11 ∧ Encoder.mapped true false ≠ .unknown ∧ Encoder.mapped true true ≠ .s10 ∧
      (65535#16).toNat + 1 = 65536 := by decide

/-- O25: both ends of both ranges. -/
theorem witness_StepLengthIsPositive :
    F64.le Config.diameterMin Config.diameterMin = true ∧ F64.le Config.diameterMax Config.diameterMax = true ∧
      F64.le Config.diameterMin Config.diameterMax = true ∧ 80 ≤ (80#16).toNat ∧ (128#16).toNat ≤ 128 := by decide +kernel

/-- O27, O31, O32: a slow and another tick while connected, with an empty schedule and with a scheduled tick. -/
theorem witness_ConnectedTickAdvancesBothAxles :
    (slow.TickNext ∧ slow.connected = true ∧ slow.SlowDue ∧ slow.handshakePending = true) ∧
      (live.TickNext ∧ live.connected = true ∧ ¬ live.SlowDue) ∧
      ∃ s : State, s.TickNext ∧ s.connected = true ∧ s.SlowDue ∧ s.handshakePending = false ∧ s.arrivals = [.tick] :=
  ⟨⟨⟨rfl, .inl rfl⟩, rfl, by unfold State.SlowDue; decide +kernel, rfl⟩,
   ⟨⟨rfl, .inl rfl⟩, rfl, by unfold State.SlowDue; decide +kernel⟩,
   { slow with handshakePending := false, arrivals := [.tick] }, ⟨rfl, .inr rfl⟩, rfl,
   by unfold State.SlowDue; decide +kernel, rfl, rfl⟩

/-- O28: a slow tick that sends. -/
theorem witness_SlowTickRunsResponse : slow.TickNext ∧ slow.SlowDue :=
  ⟨⟨rfl, .inl rfl⟩, by unfold State.SlowDue; decide +kernel⟩

/-- O29: both kinds of tick while `Disconnected`. -/
theorem witness_DisconnectedTickMovesNothing :
    (base.TickNext ∧ base.connected = false ∧ ¬ base.SlowDue) ∧
      ∃ s : State, s.TickNext ∧ s.connected = false ∧ s.SlowDue :=
  ⟨⟨⟨rfl, .inl rfl⟩, rfl, by unfold State.SlowDue; decide +kernel⟩,
   { base with slowTicksElapsed := 5 }, ⟨rfl, .inl rfl⟩, rfl, by unfold State.SlowDue; decide +kernel⟩

/-- O30: the last tick of a period, the first one, and a step that is no tick. -/
theorem witness_SlowCounterCountsTicksCyclically :
    (∃ t, step slow = .next t) ∧ slow.TickNext ∧ slow.slowTicksElapsed < slow.params.slowPeriodTicks ∧
      ∃ s t : State, step s = .next t ∧ ¬ s.TickNext :=
  ⟨⟨_, step_of_tickNext ⟨rfl, .inl rfl⟩⟩, ⟨rfl, .inl rfl⟩, by decide +kernel,
   { base with arrivals := [.rxByte 0#8] }, _, rfl, by rintro ⟨-, h | h⟩ <;> simp at h⟩

/-- O33: a RESPONSE owed one tick before, and a whole period before, the slow tick. -/
theorem witness_OwedResponseComesWithinSlowPeriod :
    (slow.halted = false ∧ slow.arrivals = [] ∧ slow.connected = true ∧ slow.handshakePending = true ∧
      slow.slowTicksElapsed + 1 = slow.params.slowPeriodTicks) ∧
    ∃ s : State, s.halted = false ∧ s.arrivals = [] ∧ s.connected = true ∧ s.handshakePending = true ∧
      s.slowTicksElapsed = 0 ∧ s.slowTicksElapsed < s.params.slowPeriodTicks :=
  ⟨⟨rfl, rfl, rfl, rfl, by decide +kernel⟩, { slow with slowTicksElapsed := 0 }, rfl, rfl, rfl, rfl, rfl, by decide +kernel⟩

/-- O34: a byte that completes nothing, in both modes. -/
theorem witness_TicksCommuteWithIncompleteBytes :
    (base.halted = false ∧ base.rxLen < 14 ∧ base.rxLen + 1 ≠ (if base.connected then 14 else 8)) ∧
      ∃ s : State, s.connected = true ∧ s.halted = false ∧ s.rxLen = 12 ∧
        s.rxLen + 1 ≠ (if s.connected then 14 else 8) :=
  ⟨by decide, { live with rxLen := 12 }, rfl, rfl, rfl, by decide⟩

/-- O35: the last byte of a CONNECT, and of a DISCONNECT; ticks are O27's and O29's. -/
theorem witness_FlagTransitionsAreTheTable :
    (∃ s t : State, step s = .next t ∧ s.ByteNext 0#8 [] ∧ s.connected = false ∧ s.rxLen = 7) ∧
      ∃ s t : State, step s = .next t ∧ s.ByteNext 0#8 [] ∧ s.connected = true ∧ s.rxLen = 13 ∧ s.rxBuf[8] = 0x07#8 :=
  ⟨⟨{ base with rxLen := 7, arrivals := [.rxByte 0#8] }, _, rfl, ⟨rfl, rfl, by decide⟩, rfl, rfl⟩,
   ⟨{ live with rxLen := 13, rxBuf := #v[0, 0, 0, 0, 0, 0, 0, 0, 0x07, 0, 0, 0, 0, 0], arrivals := [.rxByte 0#8] }, _, rfl,
    ⟨rfl, rfl, by decide⟩, rfl, rfl, rfl⟩⟩

/-- O38: a run of no step, and of one step. -/
theorem witness_EveryRunIsSafe :
    Reaches ({ State.resetWith true {} with arrivals := [] } : State) base ∧
      ∃ t, Reaches ({ State.resetWith true {} with arrivals := [.rxByte 0#8] } : State) t ∧ t.rxLen = 1 :=
  ⟨.start, _, .next .start rfl, rfl⟩

/-- O40: two different states that agree on axle 1, and a step of the first. -/
theorem witness_AxlesAreIndependent :
    ∃ s s' t : State, AgreeOnAxle .one s s' ∧ s.enc2 ≠ s'.enc2 ∧ step s = .next t :=
  ⟨slow, { slow with enc2 := base.enc2 }, _, ⟨rfl, rfl, rfl, rfl, rfl, rfl, rfl, rfl, rfl, rfl⟩, by decide +kernel,
    step_of_tickNext ⟨rfl, .inl rfl⟩⟩

/-- O42: a finite pattern with the largest exponent, an infinity, a NaN. -/
theorem witness_WideningIsExact :
    f32Exp 0x7F7FFFFF#32 = 254 ∧ (f32Exp 0xFF800000#32 = 255 ∧ f32Frac 0xFF800000#32 = 0) ∧
      (f32Exp 0x7F800001#32 = 255 ∧ f32Frac 0x7F800001#32 ≠ 0) := by decide

/-- O43: not a NaN: the infinity and the minus zero. -/
theorem witness_NarrowingInvertsWidening : f32IsNaN 0x7F800000#32 = false ∧ f32IsNaN 0x80000000#32 = false := by decide

/-- O44: a rounding that ends in a finite value, a tie, and the first value that rounds to the infinity. -/
theorem witness_RoundingIsToNearestTiesToEven :
    F64.round false 3 2 = .fin false 0 2 ∧ F64.round true 5 2 = .fin true 0 2 ∧
      F64.round false (2 ^ 2098 - 2 ^ 2044) 1 = .inf false ∧
      F64.round false (2 ^ 2098 - 2 ^ 2044 - 1) 1 = .fin false 2046 0xFFFFFFFFFFFFF := by decide +kernel

/-- O45: a NaN pattern at each end. -/
theorem witness_FreeNaNPatternsAreAllNaNs : f32IsNaN 0x7F800001#32 = true ∧ f32IsNaN 0xFFFFFFFF#32 = true := by decide

/-- O46: a connected block and numbers: 5.0, an infinity and a minus zero. -/
theorem witness_CommandedVelocityIsReportedExactly :
    live.connected = true ∧ f32IsNaN 0x40A00000#32 = false ∧ f32IsNaN 0x7F800000#32 = false ∧
      f32IsNaN 0x80000000#32 = false := by decide

/-- The hypotheses of O47. -/
def inRangePremise (dt : F64) (e : Encoder) : Bool :=
  let l := F64.mul (F64.ofNat 2) e.stepLengthM
  let u := e.update dt
  decide (e.phaseDeg = F64.ofNat 90) && F64.le (.fin false 23 0) e.stepLengthM &&
    F64.le e.stepLengthM (.fin false 2023 0) && F64.lt (F64.mul (.fin true 1022 0x8000000000000) l) e.posA &&
    F64.lt e.posA l && F64.le (F64.neg l) (F64.mul u.velocityMps dt) && F64.le (F64.mul u.velocityMps dt) l

/-- O47: `s = 2^-7`, `L = 2^-6`, `DT = 2^-7`: a step of exactly `-L` from just above `-0.75 L`, one of exactly `L` from just
below `L`, and the defaults. -/
theorem witness_UpdateKeepsPositionsInRange :
    inRangePremise (.fin false 1016 0)
        { base.enc1 with
          stepLengthM := .fin false 1016 0, posA := .fin true 1016 0x7FFFFFFFFFFFF, velocityMps := .fin true 1024 0 } =
      true ∧
    inRangePremise (.fin false 1016 0)
        { base.enc1 with
          stepLengthM := .fin false 1016 0, posA := .fin false 1016 0xFFFFFFFFFFFFF, velocityMps := .fin false 1024 0 } =
      true ∧
    inRangePremise (.fin false 1016 0) base.enc1 = true := by decide +kernel

/-- O48: finite operands with a sum of zero and without, a difference of zero and without, a divisor of zero and without. -/
theorem witness_ArithmeticRoundsTheExactResult :
    (∃ a b : F64, a.isFinite = true ∧ b.isFinite = true ∧ a.place + b.place = 0 ∧ a.place - b.place ≠ 0 ∧ b.mag ≠ 0) ∧
      ∃ a b : F64, a.isFinite = true ∧ b.isFinite = true ∧ a.place + b.place = 0 ∧ a.place - b.place = 0 ∧ b.mag = 0 ∧
        ∃ c : F64, c.isFinite = true ∧ c.place + c.place ≠ 0 :=
  ⟨⟨.fin false 0 1, .fin true 0 1, by decide +kernel⟩, .fin false 0 0, .fin true 0 0, by decide +kernel, by decide +kernel,
    by decide +kernel, by decide +kernel, by decide +kernel, .fin false 0 1, by decide +kernel⟩

/-- O49: 2^128 - 2^103, the least magnitude that narrows to the infinity, the value just below it, which narrows to the
largest finite binary32, and the tie 1 + 2^-24, which narrows to the even 1 (R14). -/
theorem witness_NarrowingIsToNearestTiesToEven :
    f32OfF64 0#32 (.fin true 1150 0xFFFFFF0000000) = 0xFF800000#32 ∧
      f32OfF64 0#32 (.fin false 1150 0xFFFFFEFFFFFFF) = 0x7F7FFFFF#32 ∧
      f32OfF64 0#32 (.fin false 1023 0x0000010000000) = 0x3F800000#32 := by decide +kernel

end Tests
end Sys2Proof
end

section
/-! SUPPORT. What rounding answers (spec/00_scope.md rule R13): the nearest pattern, ties to the even one, the infinity from
half-way past the largest finite value on; and that the operations on finite operands round the exact result once. -/

namespace Sys2Proof
namespace F64

/-- R13, R14: how far the value of pattern `m` is from `n / d`, in `d`-ths of a unit. -/
def patternError (p n d m : Nat) : Nat := (((d * patternUnits p m : Nat) : Int) - n).natAbs

/-- R13, R14: no pattern's value is nearer to `n / d` than the rounded one's, and a value as near, if it is another, leaves
an even pattern chosen. -/
theorem roundMag_nearest {p d : Nat} (hp : 2 ≤ p) (hd : 0 < d) (n m : Nat) :
    patternError p n d (roundMag p n d) ≤ patternError p n d m ∧
    (patternUnits p m ≠ patternUnits p (roundMag p n d) →
      patternError p n d (roundMag p n d) = patternError p n d m → roundMag p n d % 2 = 0) := by
  obtain ⟨l, hlo, hhi⟩ := exists_bracket (p := p) (by omega) hd n
  have hmono := (patternUnits_strictMono (p := p) (by omega)).monotone
  have hside : d * patternUnits p m ≤ d * patternUnits p l ∨ d * patternUnits p (l + 1) ≤ d * patternUnits p m :=
    (Nat.lt_or_ge l m).symm.imp (fun h => Nat.mul_le_mul_left d (hmono h)) (fun h => Nat.mul_le_mul_left d (hmono h))
  have hne : ∀ r, patternUnits p m ≠ patternUnits p r → d * patternUnits p m ≠ d * patternUnits p r :=
    fun r h e => h (Nat.eq_of_mul_eq_mul_left hd e)
  unfold patternError
  rw [roundMag_eq hp hd hlo hhi]
  split <;> exact ⟨by omega, fun h => by have := hne _ h; omega⟩

/-- R13, R14: rounding reaches the even pattern `m + 1` exactly from the half-way point `h` between it and the pattern
below it on. -/
theorem succ_le_roundMag_iff {p d n m h : Nat} (hp : 2 ≤ p) (hd : 0 < d) (hm : m % 2 = 1)
    (hh : patternUnits p m + patternUnits p (m + 1) = 2 * h) : m + 1 ≤ roundMag p n d ↔ d * h ≤ n := by
  obtain ⟨l, hlo, hhi⟩ := exists_bracket (p := p) (by omega) hd n
  have hle : ∀ {i j : Nat}, i ≤ j → d * patternUnits p i ≤ d * patternUnits p j :=
    fun h => Nat.mul_le_mul_left d ((patternUnits_strictMono (p := p) (by omega)).monotone h)
  have hmid : d * patternUnits p m + d * patternUnits p (m + 1) = 2 * (d * h) := by
    rw [← Nat.mul_add, hh, Nat.mul_left_comm]
  have hstep := hle (Nat.le_add_right m 1)
  have hr := roundMag_eq hp hd hlo hhi
  rcases Nat.lt_trichotomy l m with hlt | rfl | hgt
  · have h1 : d * patternUnits p (l + 1) ≤ d * patternUnits p m := hle hlt
    have hlt' : roundMag p n d < m + 1 := by rw [hr]; split <;> omega
    exact iff_of_false (by omega) (by omega)
  · rw [hr]
    split <;> omega
  · have h1 : d * patternUnits p (m + 1) ≤ d * patternUnits p l := hle hgt
    have hge : m + 1 ≤ roundMag p n d := by rw [hr]; split <;> omega
    exact iff_of_true hge (by omega)

/-- The half-way point past the largest finite binary64 value, whose pattern is the last one below the infinity's. -/
theorem patternUnits_binary64_top :
    patternUnits 53 (2047 * 2 ^ 52 - 1) + patternUnits 53 (2047 * 2 ^ 52 - 1 + 1) = 2 * (2 ^ 2098 - 2 ^ 2044) := by
  decide +kernel

/-- The pattern one past the last finite binary64 value's would be worth 2^1024, which is 2^2098 units. -/
theorem patternUnits_infinity : patternUnits 53 (2047 * 2 ^ 52) = 2 ^ 2098 := by decide +kernel

/-- R13: a pattern is the infinity's exactly from `2047 * 2 ^ 52` on. -/
theorem ofMag_eq_inf_iff (neg : Bool) (m : Nat) : ofMag neg m = .inf neg ↔ 2047 * 2 ^ 52 ≤ m := by
  unfold ofMag
  split <;> simp <;> omega

theorem ofMag_ne_nan (neg : Bool) (m : Nat) : ofMag neg m ≠ .nan := by
  unfold ofMag
  split <;> simp

theorem ofMag_signBit (neg : Bool) (m : Nat) : (ofMag neg m).signBit = neg := by
  unfold ofMag
  split <;> rfl

/-- The fields of a finite value are those of its pattern. -/
theorem pattern_of_ofMag_eq_fin {neg s : Bool} {m : Nat} {e : Fin 2047} {f : Fin (2 ^ 52)}
    (h : ofMag neg m = .fin s e f) : m = e.val * 2 ^ 52 + f.val := by
  unfold ofMag at h
  split at h
  · obtain ⟨-, rfl, rfl⟩ := F64.fin.inj h
    simp only
    omega
  · cases h

/-- Every finite value's magnitude is the value of a pattern. -/
theorem exists_pattern_of_isFinite {x : F64} (h : x.isFinite = true) : ∃ m, x.mag = patternUnits 53 m := by
  cases x with
  | nan => cases h
  | inf => cases h
  | fin s e f => exact ⟨_, mag_fin s e f⟩

/-- R13: `round` is rounding to nearest, ties to even. -/
theorem round_nearestEven (neg : Bool) (n : Nat) {d : Nat} (hd : 0 < d) : (round neg n d).NearestEven neg n d := by
  refine ⟨ofMag_ne_nan _ _, ofMag_signBit _ _, ?_, ?_⟩
  · rw [← succ_le_roundMag_iff (by omega) hd (by omega) patternUnits_binary64_top]
    exact ofMag_eq_inf_iff _ _
  · intro s e f hx c hc
    obtain ⟨m, hm⟩ := exists_pattern_of_isFinite hc
    have hr := pattern_of_ofMag_eq_fin hx
    have hmag : mag (.fin s e f) = patternUnits 53 (roundMag 53 n d) := by rw [mag_fin, hr]
    obtain ⟨hle, htie⟩ := roundMag_nearest (p := 53) (by omega) hd n m
    rw [hx, hmag, hm, ← Int.natCast_mul, ← Int.natCast_mul]
    refine ⟨hle, fun hne heq => ?_⟩
    have := htie hne heq
    omega

/-- R13: a value with at most 53 significand bits, below the top of the format, is rounded to itself. -/
theorem round_exact (s : Bool) {c i j : Nat} (hi : i ≤ 53) (hc : c < 2 ^ i) (hj : i + j ≤ 2098) :
    (round s (c * 2 ^ j) 1).isFinite = true ∧ (round s (c * 2 ^ j) 1).signBit = s ∧
      (round s (c * 2 ^ j) 1).mag = c * 2 ^ j := by
  have hex := roundMag_exact (p := 53) (d := 1) (by omega) one_pos c j
    (hc.trans_le (Nat.pow_le_pow_right Nat.zero_lt_two hi))
  rw [Nat.one_mul] at hex
  have htop : c * 2 ^ j < patternUnits 53 (2047 * 2 ^ 52) := calc
    c * 2 ^ j < 2 ^ i * 2 ^ j := Nat.mul_lt_mul_of_pos_right hc (Nat.two_pow_pos j)
    _ = 2 ^ (i + j) := (pow_add 2 i j).symm
    _ ≤ 2 ^ 2098 := pow_le_pow_right₀ one_le_two hj
    _ = patternUnits 53 (2047 * 2 ^ 52) := patternUnits_infinity.symm
  have hlt := (patternUnits_strictMono (p := 53) (by omega)).lt_iff_lt.1 (hex.trans_lt htop)
  have hsign : (round s (c * 2 ^ j) 1).signBit = s := ofMag_signBit _ _
  cases hx : round s (c * 2 ^ j) 1 with
  | nan => exact absurd hx (ofMag_ne_nan _ _)
  | inf t =>
    rw [hx] at hsign
    obtain rfl : t = s := hsign
    exact absurd ((ofMag_eq_inf_iff _ _).1 hx) (Nat.not_le_of_lt hlt)
  | fin t e f =>
    rw [hx] at hsign
    refine ⟨rfl, hsign, ?_⟩
    rw [mag_fin, ← pattern_of_ofMag_eq_fin hx, hex]

@[simp] theorem isFinite_neg (x : F64) : (neg x).isFinite = x.isFinite := by cases x <;> rfl

@[simp] theorem mag_neg (x : F64) : (neg x).mag = x.mag := by cases x <;> rfl

theorem exists_fin_of_isFinite {x : F64} (h : x.isFinite = true) : ∃ s e f, x = .fin s e f := by
  cases x with
  | nan => cases h
  | inf s => cases h
  | fin s e f => exact ⟨s, e, f, rfl⟩

theorem signBit_neg {x : F64} (h : x.isFinite = true) : (neg x).signBit = !x.signBit := by
  obtain ⟨s, e, f, rfl⟩ := exists_fin_of_isFinite h
  rfl

theorem place_neg {x : F64} (h : x.isFinite = true) : (neg x).place = -x.place := by
  rw [place, place, signBit_neg h, mag_neg]
  cases x.signBit <;> simp

section Finite
variable {a b : F64} (ha : a.isFinite = true) (hb : b.isFinite = true)
include ha hb

theorem add_of_isFinite : add a b = addFin a b := by
  obtain ⟨s, e, f, rfl⟩ := exists_fin_of_isFinite ha
  obtain ⟨t, e', f', rfl⟩ := exists_fin_of_isFinite hb
  rfl

theorem mul_of_isFinite : mul a b = round (a.signBit != b.signBit) (a.mag * b.mag) (2 ^ unitExp) := by
  obtain ⟨s, e, f, rfl⟩ := exists_fin_of_isFinite ha
  obtain ⟨t, e', f', rfl⟩ := exists_fin_of_isFinite hb
  rfl

theorem div_of_isFinite : div a b =
    if b.mag = 0 then (if a.mag = 0 then .nan else .inf (a.signBit != b.signBit))
    else round (a.signBit != b.signBit) (a.mag * 2 ^ unitExp) b.mag := by
  obtain ⟨s, e, f, rfl⟩ := exists_fin_of_isFinite ha
  obtain ⟨t, e', f', rfl⟩ := exists_fin_of_isFinite hb
  rfl

/-- R13: a sum of finite operands that is not zero is the exact sum rounded once. -/
theorem add_nearestEven (h : a.place + b.place ≠ 0) :
    (add a b).NearestEven (decide (a.place + b.place < 0)) (a.place + b.place).natAbs 1 := by
  rw [add_of_isFinite ha hb, addFin, if_neg h]
  exact round_nearestEven _ _ one_pos

/-- R13: an exact zero sum of finite operands is negative only when both are. -/
theorem add_of_place_eq_zero (h : a.place + b.place = 0) : add a b = .fin (a.signBit && b.signBit) 0 0 := by
  rw [add_of_isFinite ha hb, addFin, if_pos h, zeroOf]

/-- R13: a difference of finite operands that is not zero is the exact difference rounded once. -/
theorem sub_nearestEven (h : a.place - b.place ≠ 0) :
    (sub a b).NearestEven (decide (a.place - b.place < 0)) (a.place - b.place).natAbs 1 := by
  rw [Int.sub_eq_add_neg, ← place_neg hb] at h ⊢
  exact add_nearestEven ha ((isFinite_neg b).trans hb) h

/-- R13: an exact zero difference of finite operands is negative only when both terms, `a` and `-b`, are. -/
theorem sub_of_place_eq_zero (h : a.place - b.place = 0) : sub a b = .fin (a.signBit && !b.signBit) 0 0 := by
  rw [Int.sub_eq_add_neg, ← place_neg hb] at h
  rw [sub, add_of_place_eq_zero ha ((isFinite_neg b).trans hb) h, signBit_neg hb]

end Finite

end F64

/-- Settles O44: rounding takes the nearest pattern (`roundMag_nearest`) and overflows from the half-way point on. -/
theorem roundingIsToNearestTiesToEven : Obligations.RoundingIsToNearestTiesToEven :=
  fun neg n _ hd => F64.round_nearestEven neg n hd

/-- Settles O48: each operation on finite operands is one rounding of the exact result. -/
theorem arithmeticRoundsTheExactResult : Obligations.ArithmeticRoundsTheExactResult := by
  intro a b ha hb
  refine ⟨F64.add_nearestEven ha hb, F64.add_of_place_eq_zero ha hb, F64.sub_nearestEven ha hb,
    F64.sub_of_place_eq_zero ha hb, ?_, fun h => ?_, fun h => ?_⟩
  · rw [F64.mul_of_isFinite ha hb]
    unfold F64.unitExp
    apply F64.round_nearestEven
    positivity
  · rw [F64.div_of_isFinite ha hb, if_neg h]
    unfold F64.unitExp
    exact F64.round_nearestEven _ _ (Nat.pos_of_ne_zero h)
  · rw [F64.div_of_isFinite ha hb, if_pos h]

end Sys2Proof
end

section
/-! SUPPORT. The wire conversions (spec/00_scope.md rule R14) in terms of a binary32 pattern's sign and magnitude
pattern. -/

namespace Sys2Proof

/-- R12: the magnitude pattern of a binary32 pattern: all its bits but the sign. -/
def f32MagPattern (w : Word32) : Nat := w.toNat % 2 ^ 31

theorem f32Exp_eq (w : Word32) : f32Exp w = f32MagPattern w / 2 ^ 23 := by
  unfold f32Exp f32MagPattern
  omega

theorem f32Frac_eq (w : Word32) : f32Frac w = f32MagPattern w % 2 ^ 23 := by
  unfold f32Frac f32MagPattern
  omega

theorem f32MagPattern_lt (w : Word32) : f32MagPattern w < 2 ^ 31 := Nat.mod_lt _ (Nat.two_pow_pos 31)

/-- R12: the value of a binary32 pattern that is finite, in units of 2^-149, is that of its magnitude pattern. -/
theorem units_f32 (w : Word32) :
    F64.units 24 (f32Exp w) (f32Frac w) = F64.patternUnits 24 (f32MagPattern w) := by
  rw [f32Exp_eq, f32Frac_eq, F64.patternUnits]

/-- The same in units of 2^-1074. -/
theorem f32_units_mul (w : Word32) :
    (if f32Exp w = 0 then f32Frac w else (2 ^ 23 + f32Frac w) * 2 ^ (f32Exp w - 1)) * 2 ^ 925 =
      2 ^ F64.wireShift * F64.patternUnits 24 (f32MagPattern w) := by
  rw [← units_f32, Nat.mul_comm, F64.wireShift, F64.units]

/-- A pattern's exponent field is full exactly when its magnitude pattern is the infinity's or above it. -/
theorem f32Exp_eq_255_iff (w : Word32) : f32Exp w = 255 ↔ 255 * 2 ^ 23 ≤ f32MagPattern w := by
  have := f32MagPattern_lt w
  rw [f32Exp_eq]
  omega

theorem f32IsNaN_iff (w : Word32) : f32IsNaN w = true ↔ 255 * 2 ^ 23 < f32MagPattern w := by
  have := f32MagPattern_lt w
  rw [f32IsNaN, Bool.and_eq_true, beq_iff_eq, bne_iff_ne, f32Exp_eq, f32Frac_eq]
  omega

theorem toNat_f32Pattern (s : Bool) {m : Nat} (hm : m < 2 ^ 31) :
    (f32Pattern s m).toNat = (if s then 2 ^ 31 else 0) + m := by
  rw [f32Pattern, BitVec.toNat_ofNat, Nat.mod_eq_of_lt]
  split <;> omega

theorem f32MagPattern_f32Pattern (s : Bool) {m : Nat} (hm : m < 2 ^ 31) : f32MagPattern (f32Pattern s m) = m := by
  rw [f32MagPattern, toNat_f32Pattern s hm]
  split <;> omega

theorem msb_f32Pattern (s : Bool) {m : Nat} (hm : m < 2 ^ 31) : (f32Pattern s m).msb = s := by
  rw [BitVec.msb_eq_decide, toNat_f32Pattern s hm]
  cases s
  · simpa using hm
  · simp

/-- R12: a binary32 pattern is its sign and its magnitude pattern. -/
theorem f32Pattern_msb_f32MagPattern (w : Word32) : f32Pattern w.msb (f32MagPattern w) = w := by
  apply BitVec.eq_of_toNat_eq
  have := w.isLt
  rw [toNat_f32Pattern _ (f32MagPattern_lt w), f32MagPattern, BitVec.msb_eq_decide]
  simp only [decide_eq_true_eq]
  split <;> omega

/-! ### NaN patterns (R14, U6) -/

/-- Settles O45: a NaN pattern is a sign and a magnitude pattern above the infinity's. -/
theorem freeNaNPatternsAreAllNaNs : Obligations.FreeNaNPatternsAreAllNaNs := by
  refine ⟨fun ⟨s, k⟩ => ?_, fun w hw => ?_⟩
  · have := k.isLt
    rw [f32IsNaN_iff, nanPatternOf, f32MagPattern_f32Pattern s (by dsimp only; omega)]
    dsimp only
    omega
  · rw [f32IsNaN_iff] at hw
    have := f32MagPattern_lt w
    refine ⟨(w.msb, ⟨f32MagPattern w - (255 * 2 ^ 23 + 1), by omega⟩), ?_⟩
    rw [nanPatternOf]
    convert f32Pattern_msb_f32MagPattern w using 2
    dsimp only
    omega

/-! ### Widening (R14) -/

/-- A binary32 pattern with a finite value has at most 24 significand bits. -/
theorem exists_significand_f32 {w : Word32} (h : f32Exp w ≠ 255) :
    ∃ c j, F64.patternUnits 24 (f32MagPattern w) = c * 2 ^ j ∧ c < 2 ^ 24 ∧ j < 254 := by
  obtain ⟨k, q, hm, hq, hk⟩ := F64.pattern_binade (p := 24) (by omega) (f32MagPattern w)
  rw [Ne, f32Exp_eq_255_iff] at h
  refine ⟨q, k, ?_, hq, by omega⟩
  rw [hm, F64.patternUnits_binade (by omega) k q hq.le hk]

/-- R14: the widened value of a finite binary32 pattern. -/
theorem f64OfF32_finite {w : Word32} (h : f32Exp w ≠ 255) :
    (f64OfF32 w).isFinite = true ∧ (f64OfF32 w).signBit = w.msb ∧
      (f64OfF32 w).mag = F64.patternUnits 24 (f32MagPattern w) * 2 ^ F64.wireShift := by
  obtain ⟨c, j, hv, hc, hj⟩ := exists_significand_f32 h
  rw [f64OfF32, if_neg h, units_f32, hv, Nat.mul_assoc, ← pow_add]
  have htop : 24 + (j + F64.wireShift) ≤ 2098 := by
    rw [F64.wireShift]
    omega
  exact F64.round_exact _ (by omega) hc htop

theorem f64OfF32_inf {w : Word32} (h : f32Exp w = 255) (hf : f32Frac w = 0) : f64OfF32 w = .inf w.msb := by
  rw [f64OfF32, if_pos h, if_pos hf]

theorem f64OfF32_nan {w : Word32} (h : f32Exp w = 255) (hf : f32Frac w ≠ 0) : f64OfF32 w = .nan := by
  rw [f64OfF32, if_pos h, if_neg hf]

/-- Settles O42: a binary32 significand fits the binary64 one, so widening rounds nothing off. -/
theorem wideningIsExact : Obligations.WideningIsExact := by
  refine fun w => ⟨fun h => ?_, f64OfF32_inf, f64OfF32_nan⟩
  obtain ⟨hfin, hsign, hmag⟩ := f64OfF32_finite h
  exact ⟨hfin, hsign, by rw [hmag, f32_units_mul, Nat.mul_comm]⟩

/-! ### Narrowing (R14) -/

/-- R14: the magnitude pattern a finite value narrows to: the rounded one, cut at the infinity's. -/
def narrowedPattern (x : F64) : Nat := min (F64.roundMag 24 x.mag (2 ^ F64.wireShift)) (255 * 2 ^ 23)

theorem narrowedPattern_le (x : F64) : narrowedPattern x ≤ 255 * 2 ^ 23 := Nat.min_le_right _ _

theorem narrowedPattern_lt (x : F64) : narrowedPattern x < 2 ^ 31 := (narrowedPattern_le x).trans_lt (by omega)

theorem f32OfF64_of_isFinite (n : Word32) {x : F64} (h : x.isFinite = true) :
    f32OfF64 n x = f32Pattern x.signBit (narrowedPattern x) := by
  obtain ⟨s, e, f, rfl⟩ := F64.exists_fin_of_isFinite h
  rfl

theorem f32OfF64_inf (n : Word32) (s : Bool) : f32OfF64 n (.inf s) = f32Pattern s (255 * 2 ^ 23) := rfl

theorem f32MagPattern_f32OfF64 (n : Word32) {x : F64} (h : x.isFinite = true) :
    f32MagPattern (f32OfF64 n x) = narrowedPattern x := by
  rw [f32OfF64_of_isFinite n h, f32MagPattern_f32Pattern _ (narrowedPattern_lt x)]

/-- The half-way point past the largest finite binary32 value, whose pattern is the last one below the infinity's. -/
theorem patternUnits_binary32_top :
    F64.patternUnits 24 (255 * 2 ^ 23 - 1) + F64.patternUnits 24 (255 * 2 ^ 23 - 1 + 1) = 2 * (2 ^ 277 - 2 ^ 252) := by
  decide +kernel

/-- R14: a value narrows to the infinity exactly from half-way past the largest finite binary32 value on. -/
theorem infinity_le_narrowedPattern_iff (x : F64) :
    255 * 2 ^ 23 ≤ narrowedPattern x ↔ (2 ^ 277 - 2 ^ 252) * 2 ^ F64.wireShift ≤ x.mag := by
  rw [Nat.mul_comm (_ - _), ← F64.succ_le_roundMag_iff (by omega) (Nat.two_pow_pos F64.wireShift) (by omega)
    patternUnits_binary32_top]
  exact Nat.le_min.trans (and_iff_left le_rfl)

/-- Below the infinity nothing is cut. -/
theorem narrowedPattern_eq_roundMag {x : F64} (h : narrowedPattern x < 255 * 2 ^ 23) :
    narrowedPattern x = F64.roundMag 24 x.mag (2 ^ F64.wireShift) :=
  Nat.min_eq_left ((min_lt_iff.1 h).resolve_right (lt_irrefl _)).le

/-- R14: a value of binary32 narrows to its own pattern. -/
theorem narrowedPattern_of_mag_eq {x : F64} {m : Nat} (hm : m ≤ 255 * 2 ^ 23)
    (h : x.mag = F64.patternUnits 24 m * 2 ^ F64.wireShift) : narrowedPattern x = m := by
  rw [narrowedPattern, h, Nat.mul_comm, F64.roundMag_pattern (by omega) (Nat.two_pow_pos _), Nat.min_eq_left hm]

/-- Settles O43: the widened value is the value of its own binary32 pattern, which rounding gives back. -/
theorem narrowingInvertsWidening : Obligations.NarrowingInvertsWidening := by
  intro w n hw
  rw [← Bool.not_eq_true, f32IsNaN_iff, Nat.not_lt] at hw
  by_cases h : f32Exp w = 255
  · have hinf : f32MagPattern w = 255 * 2 ^ 23 := Nat.le_antisymm hw ((f32Exp_eq_255_iff w).1 h)
    have hfrac : f32Frac w = 0 := by rw [f32Frac_eq, hinf, Nat.mul_mod_left]
    rw [f64OfF32_inf h hfrac, f32OfF64_inf, ← hinf, f32Pattern_msb_f32MagPattern]
  · obtain ⟨hfin, hsign, hmag⟩ := f64OfF32_finite h
    rw [f32OfF64_of_isFinite n hfin, hsign, narrowedPattern_of_mag_eq hw hmag, f32Pattern_msb_f32MagPattern]

/-- Settles O49: narrowing rounds the magnitude to 24 bits, as `roundMag_nearest` says, and cuts at the infinity's
pattern. -/
theorem narrowingIsToNearestTiesToEven : Obligations.NarrowingIsToNearestTiesToEven := by
  refine ⟨fun n => ⟨rfl, rfl, rfl⟩, fun x n hx => ?_⟩
  have hpat := f32MagPattern_f32OfF64 n hx
  refine ⟨?_, ?_, ?_, fun hfin c _ => ?_⟩
  · rw [f32OfF64_of_isFinite n hx, msb_f32Pattern _ (narrowedPattern_lt x)]
  · rw [← Bool.not_eq_true, f32IsNaN_iff, hpat, Nat.not_lt]
    exact narrowedPattern_le x
  · rw [f32Exp_eq_255_iff, hpat, infinity_le_narrowedPattern_iff, F64.wireShift]
  · rw [Ne, f32Exp_eq_255_iff, hpat, Nat.not_le] at hfin
    have hr := narrowedPattern_eq_roundMag hfin
    obtain ⟨hle, htie⟩ :=
      F64.roundMag_nearest (p := 24) (by omega) (Nat.two_pow_pos F64.wireShift) x.mag (f32MagPattern c)
    simp only [f32_units_mul, hpat]
    rw [hr]
    refine ⟨hle, fun hne heq => ?_⟩
    have heven := htie (fun h => hne (by rw [h])) heq
    rw [← hr, ← hpat, f32MagPattern] at heven
    omega

end Sys2Proof
end

section
/-! SUPPORT. What no step writes (spec/00_scope.md rule R17): the configuration and the fault-injection fields. -/

namespace Sys2Proof
namespace Machine

/-- R22, R132: the fault-injection fields of both axles are the same in two states. -/
structure SameFaultInjection (s t : State) : Prop where
  enc1 : t.enc1.faultInjection = s.enc1.faultInjection
  enc2 : t.enc2.faultInjection = s.enc2.faultInjection

theorem Encoder.decode_faultInjection (a b : Bool) (e : Encoder) :
    (e.decode a b).faultInjection = e.faultInjection := by
  obtain ⟨c, h⟩ := Encoder.decode_frame a b e
  rw [h]

theorem State.advanced_faultInjection (dt : F64) (e : Encoder) :
    (State.advanced dt e).faultInjection = e.faultInjection := by
  obtain ⟨v, a, b, h⟩ := Encoder.update_frame dt e
  rw [State.advanced, Encoder.decode_faultInjection, h]

theorem State.entering_faultInjection (s : State) (e : Encoder) :
    (s.entering e).faultInjection = e.faultInjection := by
  unfold State.entering
  split <;> rfl

theorem onTick_sameFaultInjection (s : State) : SameFaultInjection s s.onTick := by
  constructor
  · rw [State.onTick_enc1]
    split <;> simp only [State.advanced_faultInjection, State.entering_faultInjection]
  · rw [State.onTick_enc2]
    split <;> simp only [State.advanced_faultInjection, State.entering_faultInjection]

theorem processConnect_sameFaultInjection (d : F64) (p1 p2 : Half) (s : State) :
    SameFaultInjection s (processConnect d p1 p2 s) := by
  unfold processConnect
  split <;> exact ⟨rfl, rfl⟩

/-- R132, log entry 9: no telegram's processing writes a fault-injection field. -/
theorem exec_sameFaultInjection {i : Instr} {s t : State} (h : exec i s = .next t) : SameFaultInjection s t := by
  cases i with
  | connect w p1 p2 =>
    obtain rfl := Host.Outcome.next.inj h
    exact processConnect_sameFaultInjection _ _ _ _
  | response v1 v2 c1 c2 =>
    obtain rfl := Host.Outcome.next.inj h
    exact ⟨by rw [State.sendResponse_enc1], by rw [State.sendResponse_enc2]⟩
  | _ =>
    obtain rfl := Host.Outcome.next.inj h
    exact ⟨rfl, rfl⟩

/-- Settles O39: by cases on what a step can be. -/
theorem configurationNeverChanges : Obligations.ConfigurationNeverChanges := by
  intro s t h
  rcases step_inversion h with ⟨-, rfl⟩ | ⟨b, rest, -, -, rfl⟩ | ⟨b, rest, u, -, -, hu, rfl⟩
  · obtain ⟨h1, h2⟩ := onTick_sameFaultInjection (s.withArrivals s.arrivals.tail)
    exact ⟨State.onTick_params _, h1, h2⟩
  · exact ⟨rfl, rfl, rfl⟩
  · obtain ⟨h1, h2⟩ := exec_sameFaultInjection hu
    exact ⟨(exec_sameOutside hu).params, h1, h2⟩

end Machine
end Sys2Proof
end

section
/-! SUPPORT. What the processing of a telegram does, field by field (spec/41_protocol_engine.md rules R150 to R166): to one
axle's record, to the mode, to `handshake_pending`. The effect on an axle reads that axle's record only (R20). -/

namespace Sys2Proof
namespace Machine

/-- R91, R151: the `ppr` a CONNECT carries for an axle. -/
def connectPpr (p1 p2 : Half) : Axle → Half
  | .one => p1
  | .two => p2

/-- R151, R154 to R163: what a telegram's processing does to the record of one axle. -/
def axleEffect (i : Instr) (a : Axle) (e : Encoder) : Encoder :=
  match i, a with
  | .connect w p1 p2, a =>
    if validConnect (f64OfF32 w) p1 p2 then e.configure (f64OfF32 w) (connectPpr p1 p2 a) else e
  | .setv1 p, .one => e.setVelocity p.a
  | .setv2 p, .two => e.setVelocity p.b
  | .setvb p, .one => e.setVelocity p.a
  | .setvb p, .two => e.setVelocity p.b
  | .seta1 p, .one => e.setAcceleration p.a
  | .seta2 p, .two => e.setAcceleration p.b
  | .setab p, .one => e.setAcceleration p.a
  | .setab p, .two => e.setAcceleration p.b
  | .disconnect _, _ => e.reset
  | .stop _, _ => e.halt
  | _, _ => e

theorem axleEffect_connect (w : Word32) (p1 p2 : Half) (a : Axle) (e : Encoder) :
    axleEffect (.connect w p1 p2) a e =
      if validConnect (f64OfF32 w) p1 p2 then e.configure (f64OfF32 w) (connectPpr p1 p2 a) else e := rfl

/-- R40, R166: the mode after a telegram's processing. -/
def modeAfter (i : Instr) (connected : Bool) : Bool :=
  match i with
  | .connect w p1 p2 => validConnect (f64OfF32 w) p1 p2 || connected
  | .disconnect _ => false
  | _ => connected

/-- R41, R166: `handshake_pending` after a telegram's processing. -/
def handshakeAfter (i : Instr) (connected pending : Bool) : Bool :=
  match i with
  | .disconnect _ => false
  | .response _ _ _ _ => pending && !connected
  | _ => true

/-- R94, R99: every telegram has a meaning in every state. -/
theorem exists_exec (i : Instr) (s : State) : ∃ t, exec i s = .next t := by
  cases i <;> exact ⟨_, rfl⟩

/-- R20: a telegram's processing takes each axle's record to its own effect on that record. -/
theorem exec_enc {i : Instr} {s t : State} (h : exec i s = .next t) (a : Axle) :
    t.enc a = axleEffect i a (s.enc a) := by
  cases i with
  | connect w p1 p2 =>
    obtain rfl := Host.Outcome.next.inj h
    rw [axleEffect_connect, processConnect]
    split <;> cases a <;> rfl
  | response v1 v2 c1 c2 =>
    obtain rfl := Host.Outcome.next.inj h
    cases a
    · exact State.sendResponse_enc1 s
    · exact State.sendResponse_enc2 s
  | _ =>
    obtain rfl := Host.Outcome.next.inj h
    cases a <;> rfl

theorem exec_connected {i : Instr} {s t : State} (h : exec i s = .next t) :
    t.connected = modeAfter i s.connected := by
  cases i with
  | connect w p1 p2 =>
    obtain rfl := Host.Outcome.next.inj h
    unfold processConnect
    split <;> rename_i hv <;> simp [modeAfter, hv]
  | response v1 v2 c1 c2 =>
    obtain rfl := Host.Outcome.next.inj h
    exact State.sendResponse_connected s
  | _ =>
    obtain rfl := Host.Outcome.next.inj h
    rfl

theorem exec_handshakePending {i : Instr} {s t : State} (h : exec i s = .next t) :
    t.handshakePending = handshakeAfter i s.connected s.handshakePending := by
  cases i with
  | response v1 v2 c1 c2 =>
    obtain rfl := Host.Outcome.next.inj h
    rw [State.sendResponse_handshake, State.responseOwed, handshakeAfter]
    cases s.connected <;> cases s.handshakePending <;> rfl
  | _ =>
    obtain rfl := Host.Outcome.next.inj h
    rfl

theorem SameOutside.out {s t : State} (h : SameOutside s t) (a : Axle) : t.out a = s.out a := by
  cases a
  · exact h.out1
  · exact h.out2

theorem SameFaultInjection.enc {s t : State} (h : SameFaultInjection s t) (a : Axle) :
    (t.enc a).faultInjection = (s.enc a).faultInjection := by
  cases a
  · exact h.enc1
  · exact h.enc2

section Frames
variable {i : Instr} (a : Axle) (e : Encoder)

/-- R20: only DISCONNECT writes more of a record than its configuration and its motion. -/
theorem axleEffect_frame (hd : ∀ p, i ≠ .disconnect p) :
    ∃ p d l v c, axleEffect i a e =
      { e with ppr := p, wheelDiameterM := d, stepLengthM := l, velocityMps := v, accelerationMps2 := c } := by
  cases i with
  | connect w p1 p2 =>
    rw [axleEffect_connect]
    split <;> exact ⟨_, _, _, _, _, rfl⟩
  | disconnect p => exact absurd rfl (hd p)
  | _ => cases a <;> exact ⟨_, _, _, _, _, rfl⟩

/-- R20: a telegram that is neither a CONNECT nor a DISCONNECT writes at most the motion. -/
theorem axleEffect_motion (hd : ∀ p, i ≠ .disconnect p) (hc : i.format ≠ .connect) :
    ∃ v c, axleEffect i a e = { e with velocityMps := v, accelerationMps2 := c } := by
  cases i with
  | connect w p1 p2 => exact absurd rfl hc
  | disconnect p => exact absurd rfl (hd p)
  | _ => cases a <;> exact ⟨_, _, rfl⟩

/-- R151: a CONNECT writes neither velocity nor acceleration. -/
theorem axleEffect_connect_motion (w : Word32) (p1 p2 : Half) :
    (axleEffect (.connect w p1 p2) a e).velocityMps = e.velocityMps ∧
      (axleEffect (.connect w p1 p2) a e).accelerationMps2 = e.accelerationMps2 := by
  rw [axleEffect_connect]
  split <;> exact ⟨rfl, rfl⟩

/-- R20: the telegrams that write the velocity of an axle are DISCONNECT, STOP, SETVB and the axle's own. -/
theorem axleEffect_velocityMps (h : ∀ p, i ≠ .disconnect p ∧ i ≠ .stop p ∧ i ≠ .setvb p ∧
    (a = .one → i ≠ .setv1 p) ∧ (a = .two → i ≠ .setv2 p)) :
    (axleEffect i a e).velocityMps = e.velocityMps := by
  cases i with
  | connect w p1 p2 => exact (axleEffect_connect_motion a e w p1 p2).1
  | setv1 p =>
    cases a with
    | one => simpa using h p
    | two => rfl
  | setv2 p =>
    cases a with
    | one => rfl
    | two => simpa using h p
  | setvb p => simpa using h p
  | disconnect p => simpa using h p
  | stop p => simpa using h p
  | _ => cases a <;> rfl

/-- R20: the telegrams that write the acceleration of an axle are DISCONNECT, STOP, SETAB and the axle's own. -/
theorem axleEffect_accelerationMps2 (h : ∀ p, i ≠ .disconnect p ∧ i ≠ .stop p ∧ i ≠ .setab p ∧
    (a = .one → i ≠ .seta1 p) ∧ (a = .two → i ≠ .seta2 p)) :
    (axleEffect i a e).accelerationMps2 = e.accelerationMps2 := by
  cases i with
  | connect w p1 p2 => exact (axleEffect_connect_motion a e w p1 p2).2
  | seta1 p =>
    cases a with
    | one => simpa using h p
    | two => rfl
  | seta2 p =>
    cases a with
    | one => rfl
    | two => simpa using h p
  | setab p => simpa using h p
  | disconnect p => simpa using h p
  | stop p => simpa using h p
  | _ => cases a <;> rfl

end Frames

/-- R40: only CONNECT and DISCONNECT write the mode. -/
theorem modeAfter_eq {i : Instr} (hd : ∀ p, i ≠ .disconnect p) (hc : i.format ≠ .connect) (c : Bool) :
    modeAfter i c = c := by
  cases i with
  | connect w p1 p2 => exact absurd rfl hc
  | disconnect p => exact absurd rfl (hd p)
  | _ => rfl

/-- R41, R153: every received telegram but DISCONNECT requests a RESPONSE. -/
theorem handshakeAfter_eq_true {i : Instr} (hd : ∀ p, i ≠ .disconnect p) (hr : i.format ≠ .response) (c h : Bool) :
    handshakeAfter i c h = true := by
  cases i with
  | disconnect p => exact absurd rfl (hd p)
  | response v1 v2 c1 c2 => exact absurd rfl hr
  | _ => rfl

/-- Settles O18: every field is what `axleEffect`, `modeAfter` and `handshakeAfter` make of it, or is left alone. -/
theorem telegramsWriteOnlyTheirFields : Obligations.TelegramsWriteOnlyTheirFields := by
  intro i s t h
  have ho := exec_sameOutside h
  have hmode := exec_connected h
  have hhand := exec_handshakePending h
  refine ⟨⟨ho.out1, ho.out2, ho.rxBuf, ho.rxLen, ho.slowTicks, ho.halted, ho.params, ho.arrivals⟩,
    fun hr => ⟨(exec_tx h hr).1, (exec_tx h hr).2, fun hd => ?_, ?_⟩, fun hr => ?_, fun hc hs => ?_, fun a => ?_⟩
  · rw [hhand, handshakeAfter_eq_true hd hr]
  · rintro ⟨p, rfl⟩
    exact ⟨hhand, hmode⟩
  · cases i with
    | response v1 v2 c1 c2 => exact ⟨exec_enc h .one, exec_enc h .two, hmode, hhand⟩
    | _ => cases hr
  · cases i with
    | connect w p1 p2 => rw [hmode, hs, modeAfter, Bool.or_true]
    | _ => cases hc
  · refine ⟨(exec_sameFaultInjection h).enc a, fun hd => ?_, fun hd hc => ?_, fun hv => ?_, fun hv => ?_⟩
    · obtain ⟨p, d, l, v, c, he⟩ := axleEffect_frame a (s.enc a) hd
      rw [exec_enc h a, he]
      exact ⟨rfl, rfl, rfl, rfl, rfl, rfl, rfl⟩
    · obtain ⟨v, c, he⟩ := axleEffect_motion a (s.enc a) hd hc
      rw [exec_enc h a, he, hmode, modeAfter_eq hd hc]
      exact ⟨rfl, rfl, rfl, rfl⟩
    · rw [exec_enc h a, axleEffect_velocityMps a _ hv]
    · rw [exec_enc h a, axleEffect_accelerationMps2 a _ hv]

end Machine
end Sys2Proof
end

section
/-! SUPPORT. The step rules the state's statements share: the step of a byte, and a tick's effect on one axle by the axle's
name (spec/00_scope.md rule R16, spec/41_protocol_engine.md rule R150, spec/42_scheduler.md rules R190 to R192). -/

namespace Sys2Proof
namespace Machine

section ByteNext
variable {s : State} {b : Byte} {rest : List Event} (h : s.ByteNext b rest)
include h

theorem step_of_byteNext : step s = (s.withArrivals rest).rxByte b := by
  obtain ⟨hh, ha, -⟩ := h
  simp [step, hh, ha]

/-- R150: a byte that completes no telegram is buffered. -/
theorem step_of_incomplete (hn : s.rxLen + 1 ≠ s.need) : step s = .next ((s.withArrivals rest).rxPut b) := by
  rw [step_of_byteNext h]
  rcases rxByte_cases b (s.withArrivals rest) with ⟨hl, -⟩ | ⟨-, he, -⟩ | ⟨-, -, he⟩
  · exact absurd h.2.2 (Nat.not_lt_of_le hl)
  · exact absurd he hn
  · exact he

/-- R150: a byte that completes a telegram is buffered, the telegram is processed, and `rx_len` restarts. -/
theorem step_of_complete (hn : s.rxLen + 1 = s.need) {u : State}
    (hu : exec ((s.withArrivals rest).rxPut b).fetchTelegram ((s.withArrivals rest).rxPut b) = .next u) :
    step s = .next u.rxDone := by
  rw [step_of_byteNext h]
  rcases rxByte_cases b (s.withArrivals rest) with ⟨hl, -⟩ | ⟨-, -, he⟩ | ⟨-, he, -⟩
  · exact absurd h.2.2 (Nat.not_lt_of_le hl)
  · rw [he, hu, State.afterTelegram]
  · exact absurd hn he

end ByteNext

theorem onTick_enc (s : State) (a : Axle) :
    s.onTick.enc a =
      if s.connected then State.advanced s.params.dt (s.entering (s.enc a)) else s.entering (s.enc a) := by
  cases a
  · exact State.onTick_enc1 s
  · exact State.onTick_enc2 s

theorem onTick_out (s : State) (a : Axle) :
    s.onTick.out a = if s.connected then State.driven s.params.dt (s.entering (s.enc a)) else s.out a := by
  cases a
  · exact State.onTick_out1 s
  · exact State.onTick_out2 s

end Machine
end Sys2Proof
end

section
/-! SUPPORT. Independence of the axles (spec/10_state.md rule R20): every operation takes states that agree on an axle to
states that agree on it. -/

namespace Sys2Proof
namespace Machine
namespace AgreeOnAxle

variable {a : Axle} {s t : State} (h : AgreeOnAxle a s t)
include h

theorem need : s.need = t.need := by rw [State.need, State.need, h.connected]

theorem fetchTelegram : s.fetchTelegram = t.fetchTelegram := by
  rw [State.fetchTelegram, State.fetchTelegram, h.connected, h.rxBuf]

theorem slowTickDue : s.slowTickDue = t.slowTickDue := by
  rw [State.slowTickDue, State.slowTickDue, h.slowTicks, h.params]

theorem responseOwed : s.responseOwed = t.responseOwed := by
  rw [State.responseOwed, State.responseOwed, h.connected, h.handshakePending]

theorem entering : s.entering (s.enc a) = t.entering (t.enc a) := by
  rw [State.entering, State.entering, h.slowTickDue, h.enc]

theorem tickNext (hs : s.TickNext) : t.TickNext := by
  rwa [State.TickNext, ← h.halted, ← h.arrivals]

theorem byteNext {b : Byte} {rest : List Event} (hs : s.ByteNext b rest) : t.ByteNext b rest := by
  rwa [State.ByteNext, ← h.halted, ← h.arrivals, ← h.rxLen]

theorem withArrivals (es : List Event) : AgreeOnAxle a (s.withArrivals es) (t.withArrivals es) := by
  cases a <;> exact { h with arrivals := rfl }

theorem rxPut (b : Byte) : AgreeOnAxle a (s.rxPut b) (t.rxPut b) where
  enc := by cases a <;> exact h.enc
  out := by cases a <;> exact h.out
  connected := h.connected
  handshakePending := h.handshakePending
  rxBuf := by simp only [State.rxPut_rxBuf, h.rxBuf, h.rxLen]
  rxLen := congrArg (· + 1) h.rxLen
  slowTicks := h.slowTicks
  halted := h.halted
  params := h.params
  arrivals := h.arrivals

theorem rxDone : AgreeOnAxle a s.rxDone t.rxDone := by
  cases a <;> exact { h with rxLen := rfl }

/-- R20, R190: a tick. -/
theorem onTick : AgreeOnAxle a s.onTick t.onTick where
  enc := by simp only [onTick_enc, h.connected, h.params, h.entering]
  out := by simp only [onTick_out, h.connected, h.params, h.entering, h.out]
  connected := by simp only [State.onTick_connected, h.connected]
  handshakePending := by simp only [State.onTick_handshake, h.slowTickDue, h.responseOwed, h.handshakePending]
  rxBuf := by simp only [State.onTick_rxBuf, h.rxBuf]
  rxLen := by simp only [State.onTick_rxLen, h.rxLen]
  slowTicks := by simp only [State.onTick_slowTicks, h.slowTickDue, h.slowTicks]
  halted := by simp only [State.onTick_halted, h.halted]
  params := by simp only [State.onTick_params, h.params]
  arrivals := by simp only [State.onTick_arrivals, h.arrivals]

/-- R20: the processing of one telegram. -/
theorem exec {i : Instr} {u v : State} (hu : exec i s = .next u) (hv : exec i t = .next v) : AgreeOnAxle a u v where
  enc := by rw [exec_enc hu, exec_enc hv, h.enc]
  out := by rw [(exec_sameOutside hu).out, (exec_sameOutside hv).out, h.out]
  connected := by rw [exec_connected hu, exec_connected hv, h.connected]
  handshakePending := by rw [exec_handshakePending hu, exec_handshakePending hv, h.connected, h.handshakePending]
  rxBuf := by rw [(exec_sameOutside hu).rxBuf, (exec_sameOutside hv).rxBuf, h.rxBuf]
  rxLen := by rw [(exec_sameOutside hu).rxLen, (exec_sameOutside hv).rxLen, h.rxLen]
  slowTicks := by rw [(exec_sameOutside hu).slowTicks, (exec_sameOutside hv).slowTicks, h.slowTicks]
  halted := by rw [(exec_sameOutside hu).halted, (exec_sameOutside hv).halted, h.halted]
  params := by rw [(exec_sameOutside hu).params, (exec_sameOutside hv).params, h.params]
  arrivals := by rw [(exec_sameOutside hu).arrivals, (exec_sameOutside hv).arrivals, h.arrivals]

end AgreeOnAxle

/-- Settles O40: the second state makes the same kind of step, and each kind keeps the agreement. -/
theorem axlesAreIndependent : Obligations.AxlesAreIndependent := by
  intro a s s' t hag hstep
  rcases step_inversion hstep with ⟨hs, rfl⟩ | ⟨b, rest, hs, hn, rfl⟩ | ⟨b, rest, u, hs, hn, hu, rfl⟩
  · refine ⟨_, step_of_tickNext (hag.tickNext hs), ?_⟩
    rw [← hag.arrivals]
    exact (hag.withArrivals _).onTick
  · rw [hag.rxLen, hag.need] at hn
    exact ⟨_, step_of_incomplete (hag.byteNext hs) hn, (hag.withArrivals rest).rxPut b⟩
  · have hput := (hag.withArrivals rest).rxPut b
    rw [hag.rxLen, hag.need] at hn
    rw [hput.fetchTelegram] at hu
    obtain ⟨v, hv⟩ := exists_exec _ ((s'.withArrivals rest).rxPut b)
    exact ⟨_, step_of_complete (hag.byteNext hs) hn hv, (hput.exec hu hv).rxDone⟩

end Machine
end Sys2Proof
end

section
/-! SUPPORT. The invariant (spec/10_state.md rules R21 to R31, R42, R43; R68, R220, R257): what it says of one axle, kept by
every telegram and every tick; then of the state, kept by every step and met after `Reset`. -/

namespace Sys2Proof
namespace Machine

/-- R152: the `ppr` test. -/
theorem validPpr_iff {p : Half} : validPpr p = true ↔ 80 ≤ p.toNat ∧ p.toNat ≤ 128 := by
  rw [validPpr, Bool.and_eq_true, decide_eq_true_iff, decide_eq_true_iff, Config.pprMin, Config.pprMax]

/-- R152: the diameter test. -/
theorem validDiameter_iff {d : F64} :
    validDiameter d = true ↔ F64.le Config.diameterMin d = true ∧ F64.le d Config.diameterMax = true := by
  rw [validDiameter, Bool.and_eq_true]

/-! ### What one record keeps -/

namespace Encoder

/-- R21, R23 to R26: two records hold the same configuration. -/
structure SameConfiguration (e e' : Encoder) : Prop where
  dutyA : e'.dutyA = e.dutyA
  dutyB : e'.dutyB = e.dutyB
  phase : e'.phaseDeg = e.phaseDeg
  ppr : e'.ppr = e.ppr
  diameter : e'.wheelDiameterM = e.wheelDiameterM
  stepLength : e'.stepLengthM = e.stepLengthM

theorem Configured.of_same {e e' : Encoder} (h : e.Configured) (hs : SameConfiguration e e') : e'.Configured where
  dutyA := hs.dutyA.trans h.dutyA
  dutyB := hs.dutyB.trans h.dutyB
  phase := hs.phase.trans h.phase
  ppr := by rw [hs.ppr]; exact h.ppr
  diameter := by rw [hs.diameter]; exact h.diameter
  stepLength := by rw [hs.stepLength, hs.diameter, hs.ppr]; exact h.stepLength

theorem configured_reset (e : Encoder) : e.reset.Configured where
  dutyA := rfl
  dutyB := rfl
  phase := rfl
  ppr := (validPpr_iff (p := Config.defaultPpr)).1 (by decide)
  diameter := (validDiameter_iff (d := Config.defaultDiameter)).1 (by decide +kernel)
  stepLength := rfl

/-- R151: a CONNECT with a diameter and a `ppr` in range configures a record. -/
theorem Configured.configure {e : Encoder} (h : e.Configured) {d : F64} {p : Half} (hd : validDiameter d = true)
    (hp : validPpr p = true) : (e.configure d p).Configured where
  dutyA := h.dutyA
  dutyB := h.dutyB
  phase := h.phase
  ppr := validPpr_iff.1 hp
  diameter := validDiameter_iff.1 hd
  stepLength := rfl

theorem sameConfiguration_update (dt : F64) (e : Encoder) : SameConfiguration e (e.update dt) :=
  ⟨rfl, rfl, rfl, rfl, rfl, rfl⟩

theorem sameConfiguration_decode (a b : Bool) (e : Encoder) : SameConfiguration e (e.decode a b) := by
  obtain ⟨c, h⟩ := decode_frame a b e
  rw [h]
  exact ⟨rfl, rfl, rfl, rfl, rfl, rfl⟩

theorem SameConfiguration.trans {e e' e'' : Encoder} (h : SameConfiguration e e') (h' : SameConfiguration e' e'') :
    SameConfiguration e e'' :=
  ⟨h'.dutyA.trans h.dutyA, h'.dutyB.trans h.dutyB, h'.phase.trans h.phase, h'.ppr.trans h.ppr,
    h'.diameter.trans h.diameter, h'.stepLength.trans h.stepLength⟩

/-- R220: a record at its defaults has counted nothing, so clearing its count changes nothing. -/
theorem AtDefaults.clearCount {e : Encoder} (h : e.AtDefaults) : e.clearCount = e := by
  have h' : e.reset.clearCount = e.reset := by rw [reset_eq, Encoder.clearCount]
  rwa [show e.reset = e from h] at h'

end Encoder

theorem State.sameConfiguration_entering (s : State) (e : Encoder) : Encoder.SameConfiguration e (s.entering e) := by
  unfold State.entering
  split <;> exact ⟨rfl, rfl, rfl, rfl, rfl, rfl⟩

theorem State.sameConfiguration_advanced (dt : F64) (e : Encoder) : Encoder.SameConfiguration e (State.advanced dt e) :=
  (Encoder.sameConfiguration_update dt e).trans (Encoder.sameConfiguration_decode _ _ _)

theorem sameConfiguration_onTick (s : State) (a : Axle) : Encoder.SameConfiguration (s.enc a) (s.onTick.enc a) := by
  rw [onTick_enc]
  split
  · exact (s.sameConfiguration_entering _).trans (State.sameConfiguration_advanced _ _)
  · exact s.sameConfiguration_entering _

/-! ### What the invariant says of one axle -/

/-- The part of the invariant that is about one axle, with the mode and the slow counter it depends on. -/
structure AxleInv (connected : Bool) (slowTicks : Nat) (e : Encoder) (l : Levels) : Prop where
  configured : e.Configured
  atDefaults : connected = false → e.AtDefaults
  count : e.pulseCount.toNat ≤ slowTicks + 1
  tracks : e.Tracks l

theorem axleInv_reset (c : Bool) (n : Nat) (e : Encoder) (l : Levels) : AxleInv c n e.reset l where
  configured := e.configured_reset
  atDefaults := fun _ => e.reset_reset
  count := Nat.zero_le _
  tracks := .inl rfl

namespace AxleInv

variable {c : Bool} {n : Nat} {e : Encoder} {l : Levels}

/-- R151: a CONNECT configures both records and enters `Connected`, or leaves record and mode alone. -/
theorem connect (h : AxleInv c n e l) (w : Word32) (p1 p2 : Half) (a : Axle) :
    AxleInv (modeAfter (.connect w p1 p2) c) n (axleEffect (.connect w p1 p2) a e) l := by
  rw [axleEffect_connect, modeAfter]
  split
  · rename_i hv
    rw [hv, Bool.true_or]
    simp only [validConnect, Bool.and_eq_true] at hv
    obtain ⟨⟨hd, hp1⟩, hp2⟩ := hv
    have hp : validPpr (connectPpr p1 p2 a) = true := by cases a <;> assumption
    exact ⟨h.configured.configure hd hp, nofun, h.count, h.tracks⟩
  · rename_i hv
    rw [Bool.not_eq_true] at hv
    rwa [hv, Bool.false_or]

/-- R154 to R162: the other telegrams received while `Connected` write the motion or reset the record. -/
theorem operation {i : Instr} (h : AxleInv true n e l) (hc : i.format ≠ .connect) (a : Axle) :
    AxleInv (modeAfter i true) n (axleEffect i a e) l := by
  by_cases hd : ∀ p, i ≠ .disconnect p
  · obtain ⟨v, acc, he⟩ := axleEffect_motion a e hd hc
    rw [he, modeAfter_eq hd hc]
    exact ⟨h.configured.of_same ⟨rfl, rfl, rfl, rfl, rfl, rfl⟩, nofun, h.count, h.tracks⟩
  · simp only [ne_eq, not_forall, not_not] at hd
    obtain ⟨p, rfl⟩ := hd
    exact axleInv_reset _ _ _ _

/-- R95, R166: a telegram of the format the mode selects keeps the invariant of an axle. -/
theorem telegram {i : Instr} (h : AxleInv c n e l) (hf : i.format = if c then .operation else .connect) (a : Axle) :
    AxleInv (modeAfter i c) n (axleEffect i a e) l := by
  cases c with
  | true => exact h.operation (by rw [hf]; decide) a
  | false =>
    cases i with
    | connect w p1 p2 => exact h.connect w p1 p2 a
    | _ => cases hf

end AxleInv

/-- R190, R257: the count a tick starts from is at most the ticks since the last slow tick, the coming one left out. -/
theorem entering_count {s : State} {e : Encoder} (h : e.pulseCount.toNat ≤ s.slowTicksElapsed + 1) :
    (s.entering e).pulseCount.toNat ≤ s.onTick.slowTicksElapsed := by
  rw [State.entering, State.onTick_slowTicks]
  split
  · exact Nat.le_refl 0
  · exact h

/-- R190, R192: a tick keeps the invariant of an axle. -/
theorem AxleInv.onTick {s : State} {a : Axle} (h : AxleInv s.connected s.slowTicksElapsed (s.enc a) (s.out a)) :
    AxleInv s.onTick.connected s.onTick.slowTicksElapsed (s.onTick.enc a) (s.onTick.out a) := by
  have hconf := h.configured.of_same (sameConfiguration_onTick s a)
  have hcount := entering_count h.count
  rw [onTick_enc] at hconf ⊢
  rw [onTick_out, State.onTick_connected]
  cases hc : s.connected with
  | true =>
    rw [hc] at hconf
    exact ⟨hconf, nofun, (Encoder.decode_count_le _ _ _).trans (Nat.succ_le_succ hcount),
      .inr (Encoder.decode_state _ _ _)⟩
  | false =>
    have hdef := h.atDefaults hc
    have he : s.entering (s.enc a) = s.enc a := by
      rw [State.entering, hdef.clearCount, ite_self]
    rw [hc] at hconf
    rw [he] at hcount hconf ⊢
    exact ⟨hconf, fun _ => hdef, hcount.trans (Nat.le_succ _), h.tracks⟩

/-! ### The invariant of the state -/

theorem State.inv_iff (s : State) : s.Inv ↔
    s.rxLen < s.need ∧ s.slowTicksElapsed < s.params.slowPeriodTicks ∧
    (∀ a, AxleInv s.connected s.slowTicksElapsed (s.enc a) (s.out a)) ∧
    s.enc1.wheelDiameterM = s.enc2.wheelDiameterM ∧ s.tx.length % 13 = 0 := by
  constructor
  · intro h
    refine ⟨h.rxLen, h.slowTicks, fun a => ?_, h.oneDiameter, h.txWhole⟩
    cases a
    · exact ⟨h.enc1, fun hc => (h.atDefaults hc).1, h.counts.1, h.tracks1⟩
    · exact ⟨h.enc2, fun hc => (h.atDefaults hc).2, h.counts.2, h.tracks2⟩
  · rintro ⟨hrx, hslow, haxle, hdiam, htx⟩
    have h1 := haxle .one
    have h2 := haxle .two
    exact ⟨hrx, hslow, h1.configured, h2.configured, hdiam, fun hc => ⟨h1.atDefaults hc, h2.atDefaults hc⟩,
      ⟨h1.count, h2.count⟩, h1.tracks, h2.tracks, htx⟩

namespace State

theorem need_pos (s : State) : 0 < s.need := by
  unfold need
  split <;> decide

theorem Inv.withArrivals {s : State} (h : s.Inv) (es : List Event) : (s.withArrivals es).Inv :=
  { h with }

/-- R150: a byte that completes no telegram. -/
theorem Inv.rxPut {s : State} (h : s.Inv) (hn : s.rxLen + 1 ≠ s.need) (b : Byte) : (s.rxPut b).Inv :=
  { h with rxLen := Nat.lt_of_le_of_ne h.rxLen hn }

/-- R43, R193: the slow counter stays below its period. -/
theorem onTick_slowTicks_lt {s : State} (h : s.slowTicksElapsed < s.params.slowPeriodTicks) :
    s.onTick.slowTicksElapsed < s.params.slowPeriodTicks := by
  rw [onTick_slowTicks]
  split
  · exact one_le_slowPeriodTicks s.params
  · rename_i hd
    rw [slowTickDue, decide_eq_true_eq] at hd
    exact Nat.lt_of_le_of_ne h hd

/-- R68, R93: a tick appends one whole RESPONSE or nothing. -/
theorem onTick_txWhole {s : State} (h : s.tx.length % 13 = 0) : s.onTick.tx.length % 13 = 0 := by
  rw [onTick_tx]
  split
  · rw [List.length_append, show (encode s.responseTelegram).length = 13 from rfl, Nat.add_mod_right, h]
  · exact h

/-- R190: a tick. -/
theorem Inv.onTick {s : State} (h : s.Inv) : s.onTick.Inv := by
  obtain ⟨hrx, hslow, haxle, hdiam, htx⟩ := s.inv_iff.1 h
  refine s.onTick.inv_iff.2 ⟨?_, ?_, fun a => (haxle a).onTick, ?_, onTick_txWhole htx⟩
  · rwa [onTick_rxLen, need, onTick_connected]
  · rw [onTick_params]
    exact onTick_slowTicks_lt hslow
  · calc s.onTick.enc1.wheelDiameterM
      _ = s.enc1.wheelDiameterM := (sameConfiguration_onTick s .one).diameter
      _ = s.enc2.wheelDiameterM := hdiam
      _ = s.onTick.enc2.wheelDiameterM := (sameConfiguration_onTick s .two).diameter.symm

end State

/-- R25: a telegram leaves both records with one diameter. -/
theorem axleEffect_oneDiameter (i : Instr) {e1 e2 : Encoder} (h : e1.wheelDiameterM = e2.wheelDiameterM) :
    (axleEffect i .one e1).wheelDiameterM = (axleEffect i .two e2).wheelDiameterM := by
  cases i with
  | connect w p1 p2 =>
    rw [axleEffect_connect, axleEffect_connect]
    split
    · rfl
    · exact h
  | disconnect p => rfl
  | _ => exact h

/-- R150: the telegram a byte completes. -/
theorem State.Inv.telegram {s u : State} {b : Byte} (h : s.Inv)
    (hu : exec (s.rxPut b).fetchTelegram (s.rxPut b) = .next u) : u.rxDone.Inv := by
  obtain ⟨-, hslow, haxle, hdiam, htx⟩ := s.inv_iff.1 h
  have hf : (s.rxPut b).fetchTelegram.format = if s.connected then .operation else .connect := decodeBuffer_format _ _
  have ho := exec_sameOutside hu
  have hsent := (exec_tx hu (fetchTelegram_format _)).1
  refine u.rxDone.inv_iff.2 ⟨u.rxDone.need_pos, ?_, fun a => ?_, ?_, ?_⟩
  · change u.slowTicksElapsed < u.params.slowPeriodTicks
    rw [ho.slowTicks, ho.params]
    exact hslow
  · have ha : AxleInv u.connected u.slowTicksElapsed (u.enc a) (u.out a) := by
      rw [exec_connected hu, exec_enc hu, ho.slowTicks, ho.out]
      cases a
      · exact (haxle .one).telegram hf .one
      · exact (haxle .two).telegram hf .two
    cases a <;> exact ha
  · calc u.enc1.wheelDiameterM
      _ = (axleEffect _ .one s.enc1).wheelDiameterM := congrArg _ (exec_enc hu .one)
      _ = (axleEffect _ .two s.enc2).wheelDiameterM := axleEffect_oneDiameter _ hdiam
      _ = u.enc2.wheelDiameterM := congrArg _ (exec_enc hu .two).symm
  · change u.tx.length % 13 = 0
    rw [hsent]
    exact htx

/-- Settles O36: by cases on what a step can be. -/
theorem everyStepKeepsInvariant : Obligations.EveryStepKeepsInvariant := by
  intro s t h hstep
  rcases step_inversion hstep with ⟨-, rfl⟩ | ⟨b, rest, -, hn, rfl⟩ | ⟨b, rest, u, -, -, hu, rfl⟩
  · exact (h.withArrivals _).onTick
  · exact (h.withArrivals rest).rxPut hn b
  · exact (h.withArrivals rest).telegram hu

/-! ### Reset and halted -/

theorem State.inv_resetWith (ok : Bool) (p : Params) (es : List Event) :
    ({ State.resetWith ok p with arrivals := es } : State).Inv := by
  refine (State.inv_iff _).2 ⟨State.need_pos _, State.one_le_slowPeriodTicks p, fun a => ?_, rfl, rfl⟩
  cases a <;> exact axleInv_reset _ _ _ _

/-- Settles O37: at reset both records are reset ones and nothing is buffered, counted or sent. -/
theorem resetMeetsInvariant : Obligations.ResetMeetsInvariant :=
  ⟨State.inv_resetWith Config.initOk Config.params [], State.inv_resetWith true⟩

/-- Settles O41: the records at system start are reset ones, whose fields `Encoder.reset_eq` gives. -/
theorem resetLeavesTheDefaults : Obligations.ResetLeavesTheDefaults := by
  intro p
  refine ⟨fun a => ?_, rfl, rfl, rfl, rfl, rfl, rfl⟩
  have he : (State.resetWith true p).enc a = Encoder.atSystemStart := by cases a <;> rfl
  rw [he, Encoder.atSystemStart, Encoder.reset_eq]
  exact ⟨rfl, rfl, rfl, rfl, rfl, rfl, rfl, rfl, rfl, rfl, rfl, rfl⟩

/-- Settles O7: by cases on what a step can be; none starts from a halted block. -/
theorem haltedBlockHasNoStep : Obligations.HaltedBlockHasNoStep := by
  refine ⟨fun s hs => by rw [step, if_pos hs], fun _ _ => rfl, fun s t h => ?_⟩
  rcases step_inversion h with ⟨hs, rfl⟩ | ⟨b, rest, hs, -, rfl⟩ | ⟨b, rest, u, hs, -, hu, rfl⟩
  · exact ⟨hs.1, (State.onTick_halted _).trans hs.1⟩
  · exact ⟨hs.1, hs.1⟩
  · exact ⟨hs.1, (exec_sameOutside hu).halted.trans hs.1⟩

end Machine
end Sys2Proof
end

section
/-! SUPPORT. The step length (spec/10_state.md rules R26, R31): bounds on a rounded value, and from them that every step
length a CONNECT can leave is finite and positive. -/

namespace Sys2Proof
namespace F64

/-- A finite value without sign whose magnitude lies between two bounds. -/
structure Between (lo hi : Nat) (x : F64) : Prop where
  finite : x.isFinite = true
  sign : x.signBit = false
  lower : lo ≤ x.mag
  upper : x.mag ≤ hi

/-- R13: rounding keeps a bound that is itself a finite value. -/
theorem round_between {n d : Nat} {lo hi : F64} (hlo : lo.isFinite = true) (hhi : hi.isFinite = true) (hd : 0 < d)
    (h1 : d * lo.mag ≤ n) (h2 : n ≤ d * hi.mag) : Between lo.mag hi.mag (round false n d) := by
  obtain ⟨m, hm⟩ := exists_pattern_of_isFinite hlo
  obtain ⟨s, e, f, rfl⟩ := exists_fin_of_isFinite hhi
  rw [hm] at h1 ⊢
  rw [mag_fin] at h2 ⊢
  have hge : m ≤ roundMag 53 n d := le_roundMag (by omega) hd h1
  have hle : roundMag 53 n d ≤ e.val * 2 ^ 52 + f.val := roundMag_le (by omega) hd h2
  have hmono := (patternUnits_strictMono (p := 53) (by omega)).monotone
  have hsign : (round false n d).signBit = false := ofMag_signBit _ _
  cases hx : round false n d with
  | nan => exact absurd hx (ofMag_ne_nan _ _)
  | inf t =>
    rw [hx] at hsign
    obtain rfl : t = false := hsign
    have htop := (ofMag_eq_inf_iff _ _).1 hx
    omega
  | fin t e' f' =>
    rw [hx] at hsign
    have hmag : mag (.fin t e' f') = patternUnits 53 (roundMag 53 n d) := by
      rw [mag_fin, ← pattern_of_ofMag_eq_fin hx]
    exact ⟨rfl, hsign, hmag ▸ hmono hge, hmag ▸ hmono hle⟩

/-- R13: the comparison `<=` in terms of the places. -/
theorem le_iff {a b : F64} : le a b = true ↔ a.isNaN = false ∧ b.isNaN = false ∧ a.place ≤ b.place := by
  rw [le, Bool.and_eq_true, Bool.and_eq_true, Bool.not_eq_true', Bool.not_eq_true', decide_eq_true_iff, and_assoc]

theorem place_of_sign {x : F64} (h : x.signBit = false) : x.place = x.mag := by
  rw [place, h]
  rfl

/-- R13: between two finite positive bounds a value is finite and positive. -/
theorem between_of_le {lo hi x : F64} (hlo : lo.signBit = false) (hpos : 0 < lo.mag) (hhi : hi.signBit = false)
    (htop : hi.mag < 2 ^ 2098) (h1 : le lo x = true) (h2 : le x hi = true) : Between lo.mag hi.mag x := by
  obtain ⟨-, hnan, h1⟩ := le_iff.1 h1
  obtain ⟨-, -, h2⟩ := le_iff.1 h2
  rw [place_of_sign hlo] at h1
  rw [place_of_sign hhi] at h2
  have hsign : x.signBit = false := by
    rw [← Bool.not_eq_true]
    intro hs
    rw [place, if_pos hs] at h1
    omega
  rw [place_of_sign hsign] at h1 h2
  refine ⟨?_, hsign, by omega, by omega⟩
  cases x with
  | nan => cases hnan
  | inf t =>
    have : 2 ^ 2098 ≤ hi.mag := Int.ofNat_le.1 h2
    omega
  | fin => rfl

/-- R13: a product of positive numbers, bounded on both sides. -/
theorem Between.mul {x y : F64} {l u : Nat} (hx : Between l u x) (hy : y.isFinite = true) (hs : y.signBit = false)
    {lo hi : F64} (hlo : lo.isFinite = true) (hhi : hi.isFinite = true)
    (h1 : 2 ^ unitExp * lo.mag ≤ l * y.mag) (h2 : u * y.mag ≤ 2 ^ unitExp * hi.mag) :
    Between lo.mag hi.mag (F64.mul x y) := by
  rw [mul_of_isFinite hx.finite hy, hx.sign, hs]
  exact round_between hlo hhi (Nat.two_pow_pos _) (h1.trans (Nat.mul_le_mul_right _ hx.lower))
    ((Nat.mul_le_mul_right _ hx.upper).trans h2)

/-- R13: a quotient of positive numbers, bounded on both sides. -/
theorem Between.div {x y : F64} {l u l' u' : Nat} (hx : Between l u x) (hy : Between l' u' y) (hpos : 0 < l')
    {lo hi : F64} (hlo : lo.isFinite = true) (hhi : hi.isFinite = true)
    (h1 : u' * lo.mag ≤ l * 2 ^ unitExp) (h2 : u * 2 ^ unitExp ≤ l' * hi.mag) :
    Between lo.mag hi.mag (F64.div x y) := by
  have hy0 : 0 < y.mag := hpos.trans_le hy.lower
  rw [div_of_isFinite hx.finite hy.finite, if_neg hy0.ne', hx.sign, hy.sign]
  refine round_between hlo hhi hy0 ?_ ?_
  · calc y.mag * lo.mag
      _ ≤ u' * lo.mag := Nat.mul_le_mul_right _ hy.upper
      _ ≤ l * 2 ^ unitExp := h1
      _ ≤ x.mag * 2 ^ unitExp := Nat.mul_le_mul_right _ hx.lower
  · calc x.mag * 2 ^ unitExp
      _ ≤ u * 2 ^ unitExp := Nat.mul_le_mul_right _ hx.upper
      _ ≤ l' * hi.mag := h2
      _ ≤ y.mag * hi.mag := Nat.mul_le_mul_right _ hy.lower

/-- R13: a small integer is converted exactly. -/
theorem ofNat_between {n : Nat} (h : n < 2 ^ 53) : Between (n * 2 ^ unitExp) (n * 2 ^ unitExp) (ofNat n) := by
  obtain ⟨hfin, hsign, hmag⟩ := round_exact false (i := 53) (j := unitExp) le_rfl h (by rw [unitExp]; omega)
  exact ⟨hfin, hsign, hmag.ge, hmag.le⟩

theorem Between.zero_lt {x : F64} {l u : Nat} (hx : Between l u x) (hl : 0 < l) : lt zero x = true := by
  obtain ⟨s, e, f, rfl⟩ := exists_fin_of_isFinite hx.finite
  have hpos : zero.place < place (.fin s e f) := by
    rw [place_of_sign hx.sign]
    exact Int.ofNat_lt.2 (hl.trans_le hx.lower)
  rw [lt, decide_eq_true hpos]
  rfl

end F64

namespace Machine
namespace Encoder

/-- R24, R26: a diameter in range times PI lies between 1 and 4. -/
theorem circumference_between {d : F64} (h1 : F64.le Config.diameterMin d = true)
    (h2 : F64.le d Config.diameterMax = true) :
    F64.Between (F64.mag (.fin false 1023 0)) (F64.mag (.fin false 1025 0)) (F64.mul d Config.pi) :=
  (F64.between_of_le (by decide) (by decide +kernel) (by decide) (by decide +kernel) h1 h2).mul (by decide) (by decide)
    (by decide) (by decide) (by decide +kernel) (by decide +kernel)

/-- R26, R31: a step length a CONNECT can leave lies between 1/256 and 1. -/
theorem stepLength_between {d : F64} {p : Half} (h1 : F64.le Config.diameterMin d = true)
    (h2 : F64.le d Config.diameterMax = true) (hp1 : 80 ≤ p.toNat) (hp2 : p.toNat ≤ 128) :
    F64.Between (F64.mag (.fin false 1015 0)) (F64.mag (.fin false 1023 0)) (stepLengthOf d p) := by
  have hn := F64.ofNat_between (n := 2 * p.toNat) (by omega)
  have hn' : F64.Between (160 * 2 ^ F64.unitExp) (256 * 2 ^ F64.unitExp) (F64.ofNat (2 * p.toNat)) :=
    ⟨hn.finite, hn.sign, (Nat.mul_le_mul_right _ (by omega)).trans hn.lower,
      hn.upper.trans (Nat.mul_le_mul_right _ (by omega))⟩
  exact (circumference_between h1 h2).div hn' (by decide +kernel) (by decide) (by decide) (by decide +kernel)
    (by decide +kernel)

end Encoder
end Machine

/-- Settles O25: the step length lies between 1/256 and 1. -/
theorem stepLengthIsPositive : Obligations.StepLengthIsPositive := by
  intro d p h1 h2 hp1 hp2
  have h := Machine.Encoder.stepLength_between h1 h2 hp1 hp2
  exact ⟨h.finite, h.zero_lt (by decide +kernel)⟩

end Sys2Proof
end

section
/-! SUPPORT. Runs (spec/20_memory.md rules R70, R71; spec/60_exceptions.md rule R210): a block that has the invariant and is
not halted has a next step, and every state of a run from reset is such a block. -/

namespace Sys2Proof
namespace Machine

/-- R62, R71: what comes next is a tick, which an empty schedule means too, or a byte. -/
theorem State.tickNext_or_byteNext {s : State} (hh : s.halted = false) (hr : s.rxLen < 14) :
    s.TickNext ∨ ∃ b rest, s.ByteNext b rest := by
  match ha : s.arrivals with
  | [] => exact .inl ⟨hh, .inl ha⟩
  | .tick :: _ => exact .inl ⟨hh, .inr (by rw [ha]; rfl)⟩
  | .rxByte b :: rest => exact .inr ⟨b, rest, hh, ha, hr⟩

/-- R95: no telegram is longer than the buffer. -/
theorem State.need_le (s : State) : s.need ≤ 14 := by
  unfold need
  split <;> decide

/-- R210: with `rx_len` in its range no step of a block that is not halted fails, since `exec` always answers. -/
theorem State.Inv.canStep {s : State} (h : s.Inv) (hh : s.halted = false) : s.CanStep := by
  rcases State.tickNext_or_byteNext hh (h.rxLen.trans_le s.need_le) with ht | ⟨b, rest, hb⟩
  · exact ⟨_, step_of_tickNext ht⟩
  · by_cases hn : s.rxLen + 1 = s.need
    · obtain ⟨u, hu⟩ := exists_exec ((s.withArrivals rest).rxPut b).fetchTelegram ((s.withArrivals rest).rxPut b)
      exact ⟨u.rxDone, step_of_complete hb hn hu⟩
    · exact ⟨_, step_of_incomplete hb hn⟩

/-- What holds of a state and is kept by every step holds of every state reached from it. -/
theorem Reaches.induct {P : State → Prop} {s t : State} (h : Reaches s t) (hs : P s)
    (hstep : ∀ u v, P u → step u = .next v → P v) : P t := by
  induction h with
  | start => exact hs
  | next _ hv ih => exact hstep _ _ ih hv

/-- R47, R210: a block whose reset did not halt keeps the invariant and runs on. -/
theorem Reaches.inv_and_not_halted {s t : State} (h : Reaches s t) (hs : s.Inv) (hh : s.halted = false) :
    t.Inv ∧ t.halted = false := by
  obtain ⟨-, -, hlive⟩ := haltedBlockHasNoStep
  exact h.induct (P := fun u => u.Inv ∧ u.halted = false) ⟨hs, hh⟩ fun u v ⟨hu, _⟩ huv =>
    ⟨everyStepKeepsInvariant u v hu huv, (hlive u v huv).2⟩

/-- Settles O38: the reset state has the invariant and is not halted, and so has a run from it in every state. -/
theorem everyRunIsSafe : Obligations.EveryRunIsSafe := by
  intro p es t h
  obtain ⟨hinv, hh⟩ := h.inv_and_not_halted (State.inv_resetWith true p es) rfl
  exact ⟨hinv, hinv.canStep hh⟩

end Machine
end Sys2Proof
end

section
/-! SUPPORT. Decoding and encoding are inverse (spec/30_encoding.md rules R90 to R99): what byte 8 selects, each format's
round trip in both directions, and the lengths the decoder refuses. -/

namespace Sys2Proof

/-! ### The command id (R96, R97). -/

/-- R96: an id is reserved or one of 0x00 to 0x08. -/
theorem commandId_cases (id : Byte) :
    reservedId id = true ∨ id = 0x00#8 ∨ id = 0x01#8 ∨ id = 0x02#8 ∨ id = 0x03#8 ∨ id = 0x04#8 ∨ id = 0x05#8 ∨
      id = 0x06#8 ∨ id = 0x07#8 ∨ id = 0x08#8 := by
  rw [reservedId, decide_eq_true_eq]
  bv_omega

theorem ne_of_reserved {id k : Byte} (h : reservedId id = true) (hk : reservedId k = false) : id ≠ k := by
  rintro rfl
  cases hk.symm.trans h

theorem operationOf_of_reserved {id : Byte} (h : reservedId id = true) (p : Payload) : operationOf id p = .rsvd id p := by
  have h9 : 9 ≤ id.toNat := of_decide_eq_true h
  fun_cases operationOf id p
  case case10 => rfl
  all_goals omega

/-- R92, R96: whatever its id, the telegram an id selects is a well-formed OPERATION that carries the id in byte 8. -/
theorem operationOf_telegram (id : Byte) (p : Payload) :
    encode (operationOf id p) = encodeOperation id p ∧ (operationOf id p).format = .operation ∧
      (operationOf id p).wellFormed = true := by
  rcases commandId_cases id with h | rfl | rfl | rfl | rfl | rfl | rfl | rfl | rfl | rfl
  · rw [operationOf_of_reserved h]
    exact ⟨rfl, rfl, h⟩
  all_goals exact ⟨rfl, rfl, rfl⟩

/-- Settles O4: the decoder looks at byte 8 alone, by the ten cases of the id. -/
theorem commandIdSelectsTelegram : Obligations.CommandIdSelectsTelegram := by
  rintro b0 b1 b2 b3 b4 b5 b6 b7 id r9 r10 r11 r12 r13 p rfl
  refine congrArg Except.ok ?_
  change operationOf id _ = _
  rcases commandId_cases id with h | rfl | rfl | rfl | rfl | rfl | rfl | rfl | rfl | rfl
  · simp (disch := decide) only [operationOf_of_reserved h, ne_of_reserved h, if_false]
    rfl
  all_goals rfl

/-! ### Decoding an encoding. -/

theorem decode_encode_connect (d : Word32) (p1 p2 : Half) :
    decode .connect (encode (.connect d p1 p2)) = .ok (.connect d p1 p2) := by
  change Except.ok (Instr.connect (le32 _ _ _ _) (le16 _ _) (le16 _ _)) = _
  rw [le32_of_bytes, le16_of_bytes, le16_of_bytes]

theorem decode_encodeOperation (id : Byte) (p : Payload) :
    decode .operation (encodeOperation id p) = .ok (operationOf id p) := by
  change Except.ok (operationOf id ⟨le32 _ _ _ _, le32 _ _ _ _, _, _, _, _, _⟩) = _
  rw [le32_of_bytes, le32_of_bytes]

theorem decode_encode_response (v1 v2 : Word32) (c1 c2 : Half) :
    decode .response (encode (.response v1 v2 c1 c2)) = .ok (.response v1 v2 c1 c2) := by
  change Except.ok (Instr.response (le32 _ _ _ _) (le32 _ _ _ _) (le16 _ _) (le16 _ _)) = _
  rw [le32_of_bytes, le32_of_bytes, le16_of_bytes, le16_of_bytes]

/-- Settles O1: an OPERATION's encoding decodes to what its id selects, which is the telegram itself. -/
theorem decodeOfEncodeIsIdentity : Obligations.DecodeOfEncodeIsIdentity
  | .connect d p1 p2, _ => decode_encode_connect d p1 p2
  | .nop p, _ => decode_encodeOperation 0x00#8 p
  | .setv1 p, _ => decode_encodeOperation 0x01#8 p
  | .setv2 p, _ => decode_encodeOperation 0x02#8 p
  | .setvb p, _ => decode_encodeOperation 0x03#8 p
  | .seta1 p, _ => decode_encodeOperation 0x04#8 p
  | .seta2 p, _ => decode_encodeOperation 0x05#8 p
  | .setab p, _ => decode_encodeOperation 0x06#8 p
  | .disconnect p, _ => decode_encodeOperation 0x07#8 p
  | .stop p, _ => decode_encodeOperation 0x08#8 p
  | .rsvd id p, h => (decode_encodeOperation id p).trans (congrArg Except.ok (operationOf_of_reserved h p))
  | .response v1 v2 c1 c2, _ => decode_encode_response v1 v2 c1 c2

/-! ### Encoding what was decoded. -/

theorem encode_decodeConnect (b0 b1 b2 b3 b4 b5 b6 b7 : Byte) :
    encode (decodeConnect b0 b1 b2 b3 b4 b5 b6 b7) = [b0, b1, b2, b3, b4, b5, b6, b7] := by
  rw [decodeConnect, encode, bytesLe32_le32, bytesLe16_le16, bytesLe16_le16]
  rfl

theorem encode_decodeOperation (b0 b1 b2 b3 b4 b5 b6 b7 b8 b9 b10 b11 b12 b13 : Byte) :
    encode (decodeOperation b0 b1 b2 b3 b4 b5 b6 b7 b8 b9 b10 b11 b12 b13) =
      [b0, b1, b2, b3, b4, b5, b6, b7, b8, b9, b10, b11, b12, b13] := by
  rw [decodeOperation, (operationOf_telegram _ _).1, encodeOperation, bytesLe32_le32, bytesLe32_le32]
  rfl

theorem encode_response_of_bytes (b0 b1 b2 b3 b4 b5 b6 b7 b8 b9 b10 b11 : Byte) :
    encode (.response (le32 b0 b1 b2 b3) (le32 b4 b5 b6 b7) (le16 b8 b9) (le16 b10 b11)) =
      [b0, b1, b2, b3, b4, b5, b6, b7, b8, b9, b10, b11, Config.trailer] := by
  rw [encode, bytesLe32_le32, bytesLe32_le32, bytesLe16_le16, bytesLe16_le16]
  rfl

/-- Settles O2: by the branches of `decode`; the three that answer a telegram are the three formats. -/
theorem encodeOfDecodeIsIdentity : Obligations.EncodeOfDecodeIsIdentity := by
  intro f bs i h
  unfold decode at h
  split at h
  · cases h
    exact ⟨encode_decodeConnect .., rfl, rfl⟩
  · cases h
    exact ⟨encode_decodeOperation .., (operationOf_telegram _ _).2⟩
  · split_ifs at h with ht
    cases h
    rw [ht]
    exact ⟨encode_response_of_bytes .., rfl, rfl⟩
  all_goals cases h

/-! ### Lengths (R90, R94, R99). -/

/-- R90: bytes whose number is not the format's one length are refused by name. -/
theorem decode_of_length_ne {f : Format} {bs : List Byte} (h : bs.length ≠ f.length) :
    decode f bs = .error (.wrongLength f bs.length) := by
  fun_cases decode f bs
  case case5 | case6 | case7 => rfl
  all_goals exact absurd rfl h

theorem exists_decode_connect {bs : List Byte} (h : bs.length = 8) : ∃ i, decode .connect bs = .ok i :=
  match bs, h with
  | [_, _, _, _, _, _, _, _], _ => ⟨_, rfl⟩

theorem exists_decode_operation {bs : List Byte} (h : bs.length = 14) : ∃ i, decode .operation bs = .ok i :=
  match bs, h with
  | [_, _, _, _, _, _, _, _, _, _, _, _, _, _], _ => ⟨_, rfl⟩

theorem length_of_decode_eq_ok {f : Format} {bs : List Byte} (h : ∃ i, decode f bs = .ok i) : bs.length = f.length := by
  obtain ⟨i, hi⟩ := h
  by_contra hne
  cases (decode_of_length_ne hne).symm.trans hi

/-- Settles O3: every list of the format's length is a telegram, and every other length is refused. -/
theorem receivedBytesAlwaysDecode : Obligations.ReceivedBytesAlwaysDecode := fun _ =>
  ⟨⟨length_of_decode_eq_ok, exists_decode_connect⟩, ⟨length_of_decode_eq_ok, exists_decode_operation⟩,
    decode_of_length_ne (f := .connect), decode_of_length_ne (f := .operation)⟩

/-- Settles O5: each of the five is a telegram of its format, whose fields the decoder computes. -/
theorem specWordsDecode : Obligations.SpecWordsDecode := by
  refine ⟨?_, ?_, ?_, ?_, ?_⟩ <;> decide

end Sys2Proof
end

section
/-! SUPPORT. The Encoder Model (spec/40_encoder_model.md): what `update`, `level` and `decode` do with every operand, a
NaN among them. -/

namespace Sys2Proof
namespace F64

/-- R13: the comparison `<` in terms of the places. -/
theorem lt_iff {a b : F64} : lt a b = true ↔ a.isNaN = false ∧ b.isNaN = false ∧ a.place < b.place := by
  rw [lt, Bool.and_eq_true, Bool.and_eq_true, Bool.not_eq_true', Bool.not_eq_true', decide_eq_true_iff, and_assoc]

/-- R15: a NaN passes through `clamp`. -/
@[simp] theorem clamp_nan (lo hi : F64) : clamp .nan lo hi = .nan := by
  rw [clamp, lt_nan_right, lt_nan_left]
  rfl

/-- R13: zero times anything is a zero or the NaN, and both stand at place 0. -/
theorem place_zero_mul (x : F64) : (mul zero x).place = 0 := by
  cases x with
  | nan => rfl
  | inf s => rfl
  | fin s e f =>
    have hz : zero.mag = 0 := rfl
    have hr : roundMag 53 0 (2 ^ unitExp) = 0 :=
      Nat.le_zero.1 (roundMag_le (by omega) (Nat.two_pow_pos _) (Nat.zero_le _))
    rw [mul_of_isFinite rfl rfl, hz, Nat.zero_mul, round, hr]
    cases zero.signBit != signBit (.fin s e f) <;> rfl

end F64

namespace Machine
namespace Encoder

/-! ### update (R120). -/

/-- R120 step 3: channel A's position before the wrap. -/
def movedA (dt : F64) (e : Encoder) : F64 := F64.add e.posA (F64.mul (nextVelocity dt e) dt)

/-- R120 step 4: channel B's position before the wrap. -/
def movedB (dt : F64) (e : Encoder) : F64 :=
  F64.add (movedA dt e) (F64.mul (twice e.stepLengthM) (phaseFraction e))

/-- R120: an update is the new velocity and the two moved positions, wrapped together. -/
theorem update_eq (dt : F64) (e : Encoder) :
    e.update dt =
      { e with
        velocityMps := nextVelocity dt e,
        posA := (wrap e.stepLengthM (movedA dt e) (movedB dt e)).1,
        posB := (wrap e.stepLengthM (movedA dt e) (movedB dt e)).2 } := rfl

/-- R120: `update` by the branches of `wrap`. -/
theorem update_eq_ite (dt : F64) (e : Encoder) :
    e.update dt =
      if F64.le (F64.min (movedA dt e) (movedB dt e)) (F64.neg (twice e.stepLengthM)) then
        { e with
          velocityMps := nextVelocity dt e, posA := F64.add (movedA dt e) (twice e.stepLengthM),
          posB := F64.add (movedB dt e) (twice e.stepLengthM) }
      else if F64.le (twice e.stepLengthM) (F64.max (movedA dt e) (movedB dt e)) then
        { e with
          velocityMps := nextVelocity dt e, posA := F64.sub (movedA dt e) (twice e.stepLengthM),
          posB := F64.sub (movedB dt e) (twice e.stepLengthM) }
      else { e with velocityMps := nextVelocity dt e, posA := movedA dt e, posB := movedB dt e } := by
  rw [update_eq, wrap]
  split_ifs <;> rfl

/-- Settles O19: the rule is `update_eq_ite` with the velocity, the two moved positions, the lesser and the greater of
them written out. -/
theorem updateIntegratesSaturatesWraps : Obligations.UpdateIntegratesSaturatesWraps := update_eq_ite

/-- Settles O20: the velocity after an update is a clamped value, and the bounds of the clamp are in order. -/
theorem updateSaturatesVelocity : Obligations.UpdateSaturatesVelocity := fun _ _ =>
  ⟨F64.clamp_cases _ (by decide) (by decide) (by decide +kernel), rfl⟩

/-- R254: a NaN velocity or acceleration makes the next velocity NaN. -/
theorem nextVelocity_eq_nan (dt : F64) {e : Encoder} (h : e.velocityMps = .nan ∨ e.accelerationMps2 = .nan) :
    nextVelocity dt e = .nan := by
  rw [nextVelocity]
  rcases h with h | h <;> simp [h]

/-- R254: a NaN velocity, acceleration or position makes channel A's position NaN. -/
theorem movedA_eq_nan (dt : F64) {e : Encoder}
    (h : e.velocityMps = .nan ∨ e.accelerationMps2 = .nan ∨ e.posA = .nan) : movedA dt e = .nan := by
  rw [movedA]
  rcases or_assoc.2 h with hv | hp
  · simp [nextVelocity_eq_nan dt hv]
  · simp [hp]

/-- R120: wrapping leaves positions that are both NaN as they are. -/
theorem wrap_nan (s : F64) : wrap s .nan .nan = (.nan, .nan) := by simp [wrap, F64.min, F64.max]

/-- R120 corner case (c): with channel A's, both positions become NaN. -/
theorem update_pos_eq_nan {dt : F64} {e : Encoder} (h : movedA dt e = .nan) :
    (e.update dt).posA = .nan ∧ (e.update dt).posB = .nan := by
  have hb : movedB dt e = .nan := by rw [movedB, h, F64.add_nan_left]
  rw [update_eq, h, hb, wrap_nan]
  exact ⟨rfl, rfl⟩

/-! ### level (R124). -/

/-- R124, D16: a channel at a NaN position is low. -/
theorem level_nan (e : Encoder) (duty : Fin 101) : level e .nan duty = false := by simp [level]

/-- Settles O21: the NaN reaches both positions, and at a NaN position a channel is low. -/
theorem naNDrivesAxleLow : Obligations.NaNDrivesAxleLow := by
  refine fun dt e => ⟨nextVelocity_eq_nan dt, fun h => ?_⟩
  obtain ⟨ha, hb⟩ := update_pos_eq_nan (movedA_eq_nan dt h)
  refine ⟨ha, hb, ?_, ?_⟩
  · rw [levelA, ha, level_nan]
  · rw [levelB, hb, level_nan]

/-- R124: a channel's level from the values of its duty factor `k` and of `1 - k`. -/
theorem level_eq (e : Encoder) (pos : F64) {duty : Fin 101} {k k' : F64}
    (hk : F64.div (F64.ofNat duty.val) (F64.ofNat 100) = k) (hk' : F64.sub (F64.ofNat 1) k = k') :
    level e pos duty =
      (F64.le (F64.mul (F64.neg (F64.ofNat 2)) e.stepLengthM) pos &&
          F64.lt pos (F64.mul k' (F64.mul (F64.neg (F64.ofNat 2)) e.stepLengthM)) ||
        F64.le F64.zero pos && F64.lt pos (F64.mul k (twice e.stepLengthM))) := by
  subst hk hk'
  rfl

/-- Settles O23: with `k = 0` the first range is `[posMin, posMin)` and the second ends at a zero or the NaN. -/
theorem dutyZeroIsAlwaysLow : Obligations.DutyZeroIsAlwaysLow := by
  intro e pos
  have hend : (F64.le F64.zero pos && F64.lt pos (F64.mul F64.zero (twice e.stepLengthM))) = false := by
    have hzero : F64.zero.place = 0 := rfl
    rw [Bool.eq_false_iff, Ne, Bool.and_eq_true, F64.le_iff, F64.lt_iff, F64.place_zero_mul, hzero]
    omega
  rw [level_eq e pos (k := F64.zero) (k' := F64.ofNat 1) (by decide +kernel) (by decide +kernel), F64.mul_one_left,
    F64.not_le_and_lt, hend, Bool.or_false]

/-! ### decode (R125). -/

/-- R125: the mapping, as a choice on each level. -/
theorem mapped_eq (a b : Bool) :
    mapped a b = if a then (if b then .s11 else .s10) else (if b then .s01 else .s00) := by
  cases a <;> cases b <;> rfl

theorem decode_of_mapped_eq {a b : Bool} {e : Encoder} (h : mapped a b = e.quadratureState) : e.decode a b = e :=
  if_pos h

theorem decode_of_mapped_ne {a b : Bool} {e : Encoder} (h : mapped a b ≠ e.quadratureState) :
    e.decode a b =
      { e with
        pulseCount := if e.quadratureState = .unknown then e.pulseCount else e.pulseCount + 1#16,
        quadratureState := mapped a b } :=
  if_neg h

/-- Settles O24: by the branches of `decode`. -/
theorem decodeCountsEveryChange : Obligations.DecodeCountsEveryChange := by
  intro a b e
  dsimp only
  rw [← mapped_eq a b]
  refine ⟨decode_of_mapped_eq, fun hne hu => ?_, fun hne hu => ⟨e.pulseCount + 1#16, ?_, BitVec.toNat_add _ _⟩⟩
  · rw [decode_of_mapped_ne hne, if_pos hu]
  · rw [decode_of_mapped_ne hne, if_neg hu]

/-- Settles O26: with `s = 2^-7` and `DT = 2^-7`, a step of `-L` from just above `-L` takes `pos_a` near `-2 L` and
`pos_b` near `-2.25 L`, which one period up is near `-1.25 L`. -/
theorem rangePremiseAloneDoesNotBoundPosB : Obligations.RangePremiseAloneDoesNotBoundPosB :=
  ⟨.fin false 1016 0,
    { atSystemStart with
      stepLengthM := .fin false 1016 0, posA := .fin true 1016 0xFFFFFFFFFFFFF, velocityMps := .fin true 1024 0 },
    by decide +kernel⟩

end Encoder
end Machine
end Sys2Proof
end

section
/-! SUPPORT. Arithmetic on the line of units (spec/00_scope.md rule R13): a sum, and a product that is a whole number of
units, stand at the exact place rounded, and rounding a place is monotone and odd and leaves every finite value's place;
from this, bounds on sums and products. -/

namespace Sys2Proof
namespace F64

/-- R13: where rounding takes a place on the line of units. -/
def roundPlace (t : Int) : Int := t.sign * (round false t.natAbs 1).mag

/-- The magnitude of a pattern's value; from the infinity's pattern on it stays at the infinity's. -/
theorem mag_ofMag (s : Bool) (m : Nat) : (ofMag s m).mag = patternUnits 53 (Nat.min m (2047 * 2 ^ 52)) := by
  by_cases h : m / 2 ^ 52 < 2047
  · have hmin : Nat.min m (2047 * 2 ^ 52) = m := Nat.min_eq_left (by omega)
    rw [ofMag, dif_pos h, mag_fin, hmin]
    congr 1
    dsimp only
    omega
  · have hmin : Nat.min m (2047 * 2 ^ 52) = 2047 * 2 ^ 52 := Nat.min_eq_right (by omega)
    rw [ofMag, dif_neg h, hmin, patternUnits_infinity]
    rfl

theorem mag_round (s : Bool) (n d : Nat) : (round s n d).mag = (round false n d).mag := by
  rw [round, round, mag_ofMag, mag_ofMag]

theorem mag_round_zero : (round false 0 1).mag = 0 := by decide +kernel

theorem mag_round_mono {n n' : Nat} (h : n ≤ n') : (round false n 1).mag ≤ (round false n' 1).mag := by
  rw [round, round, mag_ofMag, mag_ofMag]
  exact (patternUnits_strictMono (by omega)).monotone
    (min_le_min_right (2047 * 2 ^ 52) (roundMag_mono (by omega) one_pos h))

theorem mag_round_le (n : Nat) : (round false n 1).mag ≤ patternUnits 53 (roundMag 53 n 1) := by
  rw [round, mag_ofMag]
  exact (patternUnits_strictMono (by omega)).monotone (Nat.min_le_left _ _)

theorem roundPlace_zero : roundPlace 0 = 0 := by rw [roundPlace, Int.sign_zero, Int.zero_mul]

theorem roundPlace_natCast (n : Nat) : roundPlace n = (round false n 1).mag := by
  cases n with
  | zero => rw [mag_round_zero, Int.natCast_zero, roundPlace_zero]
  | succ n => rw [roundPlace, Int.sign_natCast_of_ne_zero n.succ_ne_zero, Int.one_mul, Int.natAbs_natCast]

theorem roundPlace_neg (t : Int) : roundPlace (-t) = -roundPlace t := by simp [roundPlace]

/-- R13: rounding keeps the order of places. -/
theorem roundPlace_mono {t t' : Int} (h : t ≤ t') : roundPlace t ≤ roundPlace t' := by
  obtain ⟨n, rfl | rfl⟩ := t.eq_nat_or_neg <;> obtain ⟨n', rfl | rfl⟩ := t'.eq_nat_or_neg <;>
    simp only [roundPlace_neg, roundPlace_natCast]
  · have := mag_round_mono (n := n) (n' := n') (by omega)
    omega
  · obtain ⟨rfl, rfl⟩ : n = 0 ∧ n' = 0 := by omega
    rw [mag_round_zero]
    rfl
  · omega
  · have := mag_round_mono (n := n') (n' := n) (by omega)
    omega

theorem place_round (s : Bool) (n : Nat) : (round s n 1).place = roundPlace (if s then -(n : Int) else n) := by
  have hs : (round s n 1).signBit = s := ofMag_signBit _ _
  rw [place, mag_round, hs]
  cases s <;> simp [roundPlace_neg, roundPlace_natCast]

/-- R13: the place of a finite value is not rounded. -/
theorem roundPlace_place {x : F64} (h : x.isFinite = true) : roundPlace x.place = x.place := by
  obtain ⟨s, e, f, rfl⟩ := exists_fin_of_isFinite h
  have hr : (round false (mag (.fin s e f)) 1).mag = mag (.fin s e f) := by rw [← mag_round s, round_mag]
  rw [place]
  split <;> simp only [roundPlace_neg, roundPlace_natCast, hr]

/-- R13: a common factor of the two parts of a quotient does not count. -/
theorem round_mul_cancel (s : Bool) (n : Nat) {d : Nat} (hd : 0 < d) : round s (d * n) d = round s n 1 := by
  obtain ⟨m, hlo, hhi⟩ := exists_bracket (p := 53) (by omega) one_pos n
  rw [round, round, roundMag_eq (by omega) one_pos hlo hhi]
  rw [Nat.one_mul] at hlo hhi
  rw [roundMag_eq (by omega) hd (Nat.mul_le_mul_left d hlo) (Nat.mul_lt_mul_of_pos_left hhi hd)]
  simp only [← Nat.mul_add, Nat.mul_left_comm 2 d n, Nat.mul_lt_mul_left hd, Nat.mul_right_inj hd.ne', Nat.one_mul]

/-! ### Finite values at a place. -/

/-- A finite value and its place. -/
structure FiniteAt (t : Int) (x : F64) : Prop where
  finite : x.isFinite = true
  place_eq : x.place = t

theorem natAbs_place (x : F64) : x.place.natAbs = x.mag := by
  rw [place]
  split <;> simp

theorem place_mul_place (x y : F64) :
    x.place * y.place = if x.signBit != y.signBit then -((x.mag * y.mag : Nat) : Int) else (x.mag * y.mag : Nat) := by
  rw [place, place]
  cases x.signBit <;> cases y.signBit <;> simp

theorem isNaN_of_isFinite {x : F64} (h : x.isFinite = true) : x.isNaN = false := by
  obtain ⟨s, e, f, rfl⟩ := exists_fin_of_isFinite h
  rfl

theorem isNaN_of_ne_nan {x : F64} (h : x ≠ .nan) : x.isNaN = false := by
  cases x with
  | nan => exact absurd rfl h
  | inf => rfl
  | fin => rfl

/-- Off both infinities' places a value that is no NaN is finite. -/
theorem finiteAt_of_place {x : F64} {t : Int} (h : x.isNaN = false) (ht : x.place = t)
    (hb : t.natAbs < mag (.inf false)) : FiniteAt t x := by
  refine ⟨?_, ht⟩
  cases x with
  | nan => cases h
  | inf s =>
    refine absurd hb (Nat.not_lt_of_le ?_)
    rw [← ht, natAbs_place]
    exact le_rfl
  | fin => rfl

theorem signBit_of_place_ne_zero {x : F64} (h : x.place ≠ 0) : x.signBit = decide (x.place < 0) := by
  cases hs : x.signBit with
  | false =>
    rw [place_of_sign hs, decide_eq_false (by omega)]
  | true =>
    rw [place, if_pos hs] at h ⊢
    rw [decide_eq_true (by omega)]

/-- Two finite values at one place other than 0 are one value. -/
theorem FiniteAt.eq {x y : F64} {t : Int} (hx : FiniteAt t x) (hy : FiniteAt t y) (h0 : t ≠ 0) : x = y := by
  have hp := hx.place_eq.trans hy.place_eq.symm
  have hsign : x.signBit = y.signBit := by
    rw [signBit_of_place_ne_zero (hx.place_eq.trans_ne h0), signBit_of_place_ne_zero (hy.place_eq.trans_ne h0), hp]
  have hmag : x.mag = y.mag := by rw [← natAbs_place, ← natAbs_place, hp]
  obtain ⟨s, e, f, rfl⟩ := exists_fin_of_isFinite hx.finite
  obtain ⟨s', e', f', rfl⟩ := exists_fin_of_isFinite hy.finite
  obtain rfl : s = s' := hsign
  rw [mag_fin, mag_fin] at hmag
  have hpat := (patternUnits_strictMono (p := 53) (by omega)).injective hmag
  rw [← ofMag_pattern, ← ofMag_pattern, hpat]

/-- R13: a value with at most 53 significand bits, below the top of the format, is a finite value. -/
theorem finiteAt_round_exact {c j : Nat} (hc : c < 2 ^ 53) (hj : 53 + j ≤ 2098) :
    FiniteAt (c * 2 ^ j : Nat) (round false (c * 2 ^ j) 1) := by
  obtain ⟨hfin, hsign, hmag⟩ := round_exact false le_rfl hc hj
  exact ⟨hfin, by rw [place_of_sign hsign, hmag]⟩

section Places
variable {x y : F64} {s t : Int} (hx : FiniteAt s x) (hy : FiniteAt t y)

include hx in
theorem FiniteAt.round_eq : roundPlace s = s := by
  rw [← hx.place_eq, roundPlace_place hx.finite]

include hx in
/-- A finite magnitude is below the infinity's. -/
theorem FiniteAt.natAbs_lt : s.natAbs < mag (.inf false) := by
  obtain ⟨b, e, f, rfl⟩ := exists_fin_of_isFinite hx.finite
  have hinf : mag (.inf false) = patternUnits 53 (2047 * 2 ^ 52) := patternUnits_infinity.symm
  rw [← hx.place_eq, natAbs_place, mag_fin, hinf]
  exact patternUnits_strictMono (by omega) (by omega)

include hx in
theorem FiniteAt.neg : FiniteAt (-s) (neg x) :=
  ⟨(isFinite_neg x).trans hx.finite, by rw [place_neg hx.finite, hx.place_eq]⟩

include hx hy

theorem FiniteAt.le_iff : le x y = true ↔ s ≤ t := by
  rw [F64.le_iff, isNaN_of_isFinite hx.finite, isNaN_of_isFinite hy.finite, hx.place_eq, hy.place_eq]
  simp

theorem FiniteAt.lt_iff : lt x y = true ↔ s < t := by
  rw [F64.lt_iff, isNaN_of_isFinite hx.finite, isNaN_of_isFinite hy.finite, hx.place_eq, hy.place_eq]
  simp

theorem FiniteAt.min : FiniteAt (s ⊓ t) (F64.min x y) := by
  rw [F64.min]
  split <;> rename_i h <;> rw [FiniteAt.lt_iff hy hx] at h
  · rwa [inf_eq_right.2 (by omega)]
  · rwa [inf_eq_left.2 (by omega)]

theorem FiniteAt.max : FiniteAt (s ⊔ t) (F64.max x y) := by
  rw [F64.max]
  split <;> rename_i h <;> rw [FiniteAt.lt_iff hx hy] at h
  · rwa [sup_eq_right.2 (by omega)]
  · rwa [sup_eq_left.2 (by omega)]

/-- R13: a sum that does not overflow stands at the exact sum's place, rounded. -/
theorem FiniteAt.add (hb : (roundPlace (s + t)).natAbs < mag (.inf false)) :
    FiniteAt (roundPlace (s + t)) (F64.add x y) := by
  rw [add_of_isFinite hx.finite hy.finite, addFin, hx.place_eq, hy.place_eq]
  split
  · rename_i h
    rw [h, roundPlace_zero]
    exact ⟨rfl, by cases x.signBit && y.signBit <;> rfl⟩
  · have hsign : (if decide (s + t < 0) then -((s + t).natAbs : Int) else (s + t).natAbs) = s + t := by
      simp only [decide_eq_true_eq]
      split <;> omega
    exact finiteAt_of_place (isNaN_of_ne_nan (ofMag_ne_nan _ _)) (by rw [place_round, hsign]) hb

/-- R13: a product that is a whole number `n` of units and does not overflow stands at `n`'s place, rounded. -/
theorem FiniteAt.mul {n : Int} (hn : s * t = 2 ^ unitExp * n) (hb : (roundPlace n).natAbs < mag (.inf false)) :
    FiniteAt (roundPlace n) (F64.mul x y) := by
  rw [mul_of_isFinite hx.finite hy.finite]
  refine finiteAt_of_place (isNaN_of_ne_nan (ofMag_ne_nan _ _)) ?_ hb
  have hmag : x.mag * y.mag = 2 ^ unitExp * n.natAbs := by
    rw [← natAbs_place, ← natAbs_place, hx.place_eq, hy.place_eq, ← Int.natAbs_mul, hn, Int.natAbs_mul,
      Int.natAbs_pow, show Int.natAbs 2 = 2 from rfl]
  have hsign : (if x.signBit != y.signBit then -(n.natAbs : Int) else n.natAbs) = n := by
    have h := place_mul_place x y
    rw [hx.place_eq, hy.place_eq, hn, hmag, Int.natCast_mul, ← Int.mul_neg, ← mul_ite] at h
    exact (Int.eq_of_mul_eq_mul_left (pow_ne_zero _ two_ne_zero) h).symm
  rw [hmag, round_mul_cancel _ _ (Nat.two_pow_pos _), place_round, hsign]

end Places

/-! ### Bounds. -/

/-- A value from `-l` to `l`, for a finite bound `l`. -/
def Within (l : Int) (x : F64) : Prop := ∃ t, FiniteAt t x ∧ -l ≤ t ∧ t ≤ l

section Within
variable {l : Int} {z : F64} (hl : FiniteAt l z)
include hl

theorem natAbs_lt_of_within {t : Int} (h1 : -l ≤ t) (h2 : t ≤ l) : t.natAbs < mag (.inf false) := by
  have := hl.natAbs_lt
  omega

/-- R13: rounding keeps a finite bound. -/
theorem roundPlace_within {t : Int} (h1 : -l ≤ t) (h2 : t ≤ l) : -l ≤ roundPlace t ∧ roundPlace t ≤ l :=
  ⟨hl.neg.round_eq ▸ roundPlace_mono h1, hl.round_eq ▸ roundPlace_mono h2⟩

theorem within_of_isNaN {x : F64} (h : x.isNaN = false) (h1 : -l ≤ x.place) (h2 : x.place ≤ l) : Within l x :=
  ⟨x.place, finiteAt_of_place h rfl (natAbs_lt_of_within hl h1 h2), h1, h2⟩

theorem within_iff {x : F64} : Within l x ↔ le (neg z) x = true ∧ le x z = true := by
  constructor
  · rintro ⟨t, hx, h1, h2⟩
    exact ⟨(hl.neg.le_iff hx).2 h1, (hx.le_iff hl).2 h2⟩
  · rintro ⟨h1, h2⟩
    obtain ⟨-, hnan, h1⟩ := le_iff.1 h1
    obtain ⟨-, -, h2⟩ := le_iff.1 h2
    rw [hl.neg.place_eq] at h1
    rw [hl.place_eq] at h2
    exact within_of_isNaN hl hnan h1 h2

section Operands
variable {x y : F64} {s t : Int} (hx : FiniteAt s x) (hy : FiniteAt t y)
include hx hy

theorem finiteAt_add (h1 : -l ≤ s + t) (h2 : s + t ≤ l) : FiniteAt (roundPlace (s + t)) (F64.add x y) := by
  obtain ⟨h1, h2⟩ := roundPlace_within hl h1 h2
  exact hx.add hy (natAbs_lt_of_within hl h1 h2)

theorem within_add (h1 : -l ≤ s + t) (h2 : s + t ≤ l) : Within l (F64.add x y) :=
  ⟨_, finiteAt_add hl hx hy h1 h2, roundPlace_within hl h1 h2⟩

theorem within_sub (h1 : -l ≤ s - t) (h2 : s - t ≤ l) : Within l (F64.sub x y) :=
  within_add hl hx hy.neg h1 h2

end Operands
end Within

/-- `c` is the number `a / b`. -/
structure IsFraction (a b : Int) (c : F64) : Prop where
  finite : c.isFinite = true
  denominator : b ≠ 0
  place_eq : b * c.place = a * 2 ^ unitExp

theorem IsFraction.place_mul {a b s n : Int} {c : F64} (hc : IsFraction a b c) (hn : a * s = b * n) :
    c.place * s = 2 ^ unitExp * n :=
  Int.eq_of_mul_eq_mul_left hc.denominator <| calc
    b * (c.place * s) = a * s * 2 ^ unitExp := by rw [← Int.mul_assoc, hc.place_eq, Int.mul_right_comm]
    _ = b * (2 ^ unitExp * n) := by rw [hn, Int.mul_assoc, Int.mul_comm n]

section Scale
variable {a b s t : Int} {c x z : F64} (hc : IsFraction a b c) (hx : FiniteAt s x) (hz : FiniteAt t z)
include hc hx hz

/-- R13: `a / b` times a finite value, when that is a whole number of units within a finite bound, rounded. -/
theorem IsFraction.mul {n : Int} (hn : a * s = b * n) (h1 : -t ≤ n) (h2 : n ≤ t) :
    FiniteAt (roundPlace n) (F64.mul c x) := by
  obtain ⟨h1, h2⟩ := roundPlace_within hz h1 h2
  exact FiniteAt.mul ⟨hc.finite, rfl⟩ hx (hc.place_mul hn) (natAbs_lt_of_within hz h1 h2)

/-- R13: `a / b` times a finite value, when that is a finite value too. -/
theorem IsFraction.mul_exact (hn : a * s = b * t) : FiniteAt t (F64.mul c x) := by
  have h := FiniteAt.mul ⟨hc.finite, rfl⟩ hx (hc.place_mul hn)
  rw [hz.round_eq] at h
  exact h hz.natAbs_lt

end Scale

theorem mul_comm_of_isFinite {x y : F64} (hx : x.isFinite = true) (hy : y.isFinite = true) : mul x y = mul y x := by
  rw [mul_of_isFinite hx hy, mul_of_isFinite hy hx, Nat.mul_comm, bne_comm]

theorem isFraction_two : IsFraction 2 1 (ofNat 2) := ⟨by decide +kernel, by decide, by decide +kernel⟩
theorem isFraction_neg_two : IsFraction (-2) 1 (neg (ofNat 2)) := ⟨by decide +kernel, by decide, by decide +kernel⟩
theorem isFraction_half : IsFraction 1 2 (.fin false 1022 0) := ⟨by decide +kernel, by decide, by decide +kernel⟩
theorem isFraction_neg_quarter : IsFraction (-1) 4 (.fin true 1021 0) :=
  ⟨by decide +kernel, by decide, by decide +kernel⟩
theorem isFraction_neg_three_quarters : IsFraction (-3) 4 (.fin true 1022 0x8000000000000) :=
  ⟨by decide +kernel, by decide, by decide +kernel⟩

end F64
end Sys2Proof
end

section
/-! SUPPORT. The range of the positions (spec/40_encoder_model.md rules R122, R124, R133): with `u` a quarter of the
period, the step length is `2 u`, the period `L` is `4 u`, and a phase of 90 degrees shifts channel B by `-u`. -/

namespace Sys2Proof
namespace F64

/-- Rounding does not go above a pattern whose value is nearer than the next one's, or as near if the pattern is
even. -/
theorem roundMag_le_of_near {p d n m : Nat} (hp : 2 ≤ p) (hd : 0 < d)
    (h : 2 * n ≤ d * patternUnits p m + d * patternUnits p (m + 1))
    (htie : 2 * n = d * patternUnits p m + d * patternUnits p (m + 1) → m % 2 = 0) : roundMag p n d ≤ m := by
  have hstep := Nat.mul_lt_mul_of_pos_left (patternUnits_lt_succ (p := p) (by omega) m) hd
  rcases Nat.le_total n (d * patternUnits p m) with hlo | hlo
  · exact roundMag_le (by omega) hd hlo
  · rw [roundMag_eq hp hd hlo (by omega), if_neg (by omega)]

/-- R13: seven times a value of 53 bits, rounded, is at most four units of its last place too great, and at most three
if the value is odd. -/
theorem mag_round_seven_le {q : Nat} (hq : q < 2 ^ 53) (j : Nat) :
    (round false (7 * (q * 2 ^ j)) 1).mag ≤ 7 * (q * 2 ^ j) + (if q % 2 = 1 then 3 else 4) * 2 ^ j := by
  obtain ⟨m, hm⟩ := exists_pattern (p := 53) (by omega) ((7 * q + 4) / 8) (j + 3) (by omega)
  have hval : patternUnits 53 m = 8 * ((7 * q + 4) / 8) * 2 ^ j := by rw [hm]; ring
  obtain ⟨hnear, -⟩ := roundMag_nearest (p := 53) (by omega) one_pos (7 * (q * 2 ^ j)) m
  rw [patternError, patternError, Nat.one_mul, Nat.one_mul, hval] at hnear
  refine (mag_round_le _).trans ?_
  generalize hc : (if q % 2 = 1 then 3 else 4) = c
  have hlo : 7 * q * 2 ^ j ≤ (8 * ((7 * q + 4) / 8) + c) * 2 ^ j := Nat.mul_le_mul_right _ (by split at hc <;> omega)
  have hhi : 8 * ((7 * q + 4) / 8) * 2 ^ j ≤ (7 * q + c) * 2 ^ j := Nat.mul_le_mul_right _ (by split at hc <;> omega)
  rw [Nat.add_mul] at hlo hhi
  rw [← Nat.mul_assoc] at hnear ⊢
  omega

/-- R13: for a value `u` of 53 bits, `7 u` rounded, plus `u`, rounded again, is not above `8 u`: the first error is less
than half a unit of the last place of `8 u`, or it is just that and `u` is even. -/
theorem mag_round_seven_add_one_le {q : Nat} (hlo : 2 ^ 52 ≤ q) (hhi : q < 2 ^ 53) (j : Nat) :
    (round false ((round false (7 * (q * 2 ^ j)) 1).mag + q * 2 ^ j) 1).mag ≤ 8 * (q * 2 ^ j) := by
  have hfirst := mag_round_seven_le hhi j
  have h8 : patternUnits 53 ((j + 3) * 2 ^ 52 + q) = 8 * (q * 2 ^ j) := by
    rw [patternUnits_binade (by omega) _ _ hhi.le (.inr hlo)]
    ring
  have hnext : patternUnits 53 ((j + 3) * 2 ^ 52 + q + 1) = 8 * (q * 2 ^ j) + 8 * 2 ^ j := by
    rw [Nat.add_assoc, patternUnits_binade (by omega) _ (q + 1) hhi (.inr (by omega))]
    ring
  have hw := Nat.two_pow_pos j
  refine (mag_round_le _).trans ?_
  rw [← h8]
  refine (patternUnits_strictMono (by omega)).monotone (roundMag_le_of_near (by omega) one_pos ?_ fun htie => ?_)
  · rw [h8, hnext]
    split at hfirst <;> omega
  · rw [h8, hnext] at htie
    split at hfirst <;> omega

/-- R13: what the proofs below need of the place `u` of a quarter of the period. -/
structure QuarterPeriod (u : Int) : Prop where
  pos : 0 < u
  one : ∃ x, FiniteAt u x
  four : ∃ x, FiniteAt (4 * u) x
  eight : ∃ x, FiniteAt (8 * u) x
  seven : roundPlace (roundPlace (7 * u) + u) ≤ 8 * u

theorem quarterPeriod_of_significand {q j : Nat} (hlo : 2 ^ 52 ≤ q) (hhi : q < 2 ^ 53) (hj : j ≤ 2042) :
    QuarterPeriod (q * 2 ^ j : Nat) := by
  have hfin : ∀ i ≤ 3, ∃ x, FiniteAt (2 ^ i * q * 2 ^ j : Nat) x := fun i hi => by
    have h := finiteAt_round_exact (j := i + j) hhi (by omega)
    rw [pow_add, ← Nat.mul_assoc, Nat.mul_comm q] at h
    exact ⟨_, h⟩
  have hseven := mag_round_seven_add_one_le hlo hhi j
  have h0 := hfin 0 (by omega)
  have h2 := hfin 2 (by omega)
  have h3 := hfin 3 (by omega)
  simp only [Nat.mul_assoc] at h0 h2 h3
  have hpos : 0 < q * 2 ^ j := Nat.mul_pos (by omega) (Nat.two_pow_pos j)
  generalize q * 2 ^ j = u at *
  rw [pow_zero, Nat.one_mul] at h0
  have h7 : (7 * u : Int) = (7 * u : Nat) := rfl
  refine ⟨by omega, h0, h2, h3, ?_⟩
  rw [h7, roundPlace_natCast, ← Int.natCast_add, roundPlace_natCast]
  exact_mod_cast hseven

/-- The exponent fields of finite values are in the order of the magnitudes. -/
theorem exp_le_of_mag_le {s s' : Bool} {e e' : Fin 2047} {f f' : Fin (2 ^ 52)}
    (h : mag (.fin s e f) ≤ mag (.fin s' e' f')) : e.val ≤ e'.val := by
  rw [mag_fin, mag_fin, (patternUnits_strictMono (by norm_num)).le_iff_le] at h
  have hf := f.isLt
  have hf' := f'.isLt
  omega

/-- A finite value with an exponent field above 0 has 53 significant bits. -/
theorem mag_fin_normal (s : Bool) {e : Fin 2047} {j : Nat} (hj : e.val = j + 1) (f : Fin (2 ^ 52)) :
    mag (.fin s e f) = (2 ^ 52 + f.val) * 2 ^ j := by
  rw [mag, hj, units, if_neg (Nat.succ_ne_zero j)]
  rfl

/-- R26, R31: a value from 2^-1000 to 2^1000 is two quarters of such a period. -/
theorem exists_quarterPeriod {s : F64}
    (h : Between (mag (.fin false 23 0)) (mag (.fin false 2023 0)) s) :
    ∃ u, QuarterPeriod u ∧ FiniteAt (2 * u) s := by
  obtain ⟨hfin, hsign, hlo, hhi⟩ := h
  obtain ⟨b, e, f, rfl⟩ := exists_fin_of_isFinite hfin
  replace hlo : 23 ≤ e.val := exp_le_of_mag_le hlo
  replace hhi : e.val ≤ 2023 := exp_le_of_mag_le hhi
  obtain ⟨j, hj⟩ := Nat.exists_eq_add_of_le' (show 2 ≤ e.val by omega)
  have hf := f.isLt
  refine ⟨_, quarterPeriod_of_significand (q := 2 ^ 52 + f.val) (j := j) (by omega) (by omega) (by omega), rfl, ?_⟩
  have hmag : mag (.fin b e f) = 2 * ((2 ^ 52 + f.val) * 2 ^ j) := by
    rw [mag_fin_normal b hj]
    ring
  rw [place_of_sign hsign, hmag, Int.natCast_mul]
  rfl

end F64

namespace Machine
namespace Encoder

open F64 (FiniteAt QuarterPeriod Within roundPlace roundPlace_mono)

/-- R26, R31: a step length a run can hold is two quarters of a period. -/
theorem Configured.exists_quarterPeriod {e : Encoder} (h : e.Configured) :
    ∃ u, QuarterPeriod u ∧ FiniteAt (2 * u) e.stepLengthM := by
  obtain ⟨-, -, -, ⟨hp1, hp2⟩, ⟨hd1, hd2⟩, hs⟩ := h
  obtain ⟨hfin, hsign, hlo, hhi⟩ := stepLength_between hd1 hd2 hp1 hp2
  rw [hs]
  exact F64.exists_quarterPeriod ⟨hfin, hsign, le_trans (by decide +kernel) hlo, hhi.trans (by decide +kernel)⟩

section QuarterPeriod
variable {u : Int} (hu : QuarterPeriod u) {s : F64} (hs : FiniteAt (2 * u) s)
include hu hs

theorem twice_finiteAt : FiniteAt (4 * u) (twice s) := by
  obtain ⟨z, hz⟩ := hu.four
  exact F64.isFraction_two.mul_exact hs hz (by omega)

theorem neg_two_mul_finiteAt : FiniteAt (-(4 * u)) (F64.mul (F64.neg (F64.ofNat 2)) s) :=
  F64.isFraction_neg_two.mul_exact hs (twice_finiteAt hu hs).neg (by omega)

/-- R133: at duty 50 the ranges of `level` are `[-2s, -s)` and `[0, s)`. -/
theorem level_fifty {e : Encoder} (he : e.stepLengthM = s) (pos : F64) :
    level e pos 50 =
      (F64.le (F64.neg (F64.mul (F64.ofNat 2) s)) pos && F64.lt pos (F64.neg s) ||
        F64.le (.fin false 0 0) pos && F64.lt pos s) := by
  have hpos := hu.pos
  have hmin := neg_two_mul_finiteAt hu hs
  have hmax := twice_finiteAt hu hs
  have hposNeg := F64.isFraction_half.mul_exact hmin hs.neg (by omega)
  have hposPos := F64.isFraction_half.mul_exact hmax hs (by omega)
  rw [level_eq e pos (k := .fin false 1022 0) (k' := .fin false 1022 0) (by decide +kernel) (by decide +kernel), he,
    hposNeg.eq hs.neg (by omega), hposPos.eq hs (by omega), hmin.eq hmax.neg (by omega)]
  rfl

end QuarterPeriod

/-- Settles O22: both duties are 50, and the step length is two quarters of a period. -/
theorem defaultChannelWaveform : Obligations.DefaultChannelWaveform := by
  intro e h
  obtain ⟨u, hu, hs⟩ := h.exists_quarterPeriod
  have hlevel := level_fifty hu hs rfl
  refine ⟨?_, ?_, hlevel⟩
  · rw [levelA, h.dutyA]
    exact hlevel e.posA
  · rw [levelB, h.dutyB]
    exact hlevel e.posB

/-! ### The positions after an update (R120, R122). -/

/-- R122: two places, B's not above A's, that one wrap brings into a period `l`: they are at most two periods out, A is
not above 0 where B calls for a wrap upwards, and B not below 0 where A calls for one downwards. -/
structure OneWrapAway (l A B : Int) : Prop where
  order : B ≤ A
  lower : -(2 * l) ≤ B
  upper : A ≤ 2 * l
  upwards : B ≤ -l → A ≤ 0
  downwards : l ≤ A → 0 ≤ B

/-- R120 step 5: the wrap of such positions, by its three branches. -/
theorem wrap_within {s a b : F64} {l A B : Int} (hl : FiniteAt l (twice s)) (ha : FiniteAt A a) (hb : FiniteAt B b)
    (h : OneWrapAway l A B) : Within l (wrap s a b).1 ∧ Within l (wrap s a b).2 := by
  obtain ⟨hle, hlo, hhi, hup, hdown⟩ := h
  rw [wrap]
  split_ifs with h1 h2 <;> rw [(ha.min hb).le_iff hl.neg, inf_eq_right.2 hle] at h1
  · have hA := hup h1
    exact ⟨F64.within_add hl ha hl (by omega) (by omega), F64.within_add hl hb hl (by omega) (by omega)⟩
  · rw [hl.le_iff (ha.max hb), sup_eq_left.2 hle] at h2
    have hB := hdown h2
    exact ⟨F64.within_sub hl ha hl (by omega) (by omega), F64.within_sub hl hb hl (by omega) (by omega)⟩
  · rw [hl.le_iff (ha.max hb), sup_eq_left.2 hle] at h2
    exact ⟨⟨A, ha, by omega, by omega⟩, ⟨B, hb, by omega, by omega⟩⟩

/-- R120 step 4: at 90 degrees the shift of channel B is minus a quarter of the period. -/
theorem phaseFraction_ninety {e : Encoder} (h : e.phaseDeg = F64.ofNat 90) : phaseFraction e = .fin true 1021 0 := by
  rw [phaseFraction, h]
  decide +kernel

section Moved
variable {u : Int} (hu : QuarterPeriod u)
include hu

/-- R122: the rounded lower end of channel B's range, `-7 u` and a shift by `-u`, is not below `-8 u`. -/
theorem neg_eight_le_roundPlace : -(8 * u) ≤ roundPlace (roundPlace (-(7 * u)) - u) := by
  have h := hu.seven
  rw [F64.roundPlace_neg, ← neg_add', F64.roundPlace_neg]
  omega

variable {e : Encoder} (hs : FiniteAt (2 * u) e.stepLengthM)
include hs

/-- R122: a position above `-0.75 L` rounded and below `L` is finite and not below `-0.75 L`. -/
theorem posA_finiteAt (hlo : F64.lt (F64.mul (.fin true 1022 0x8000000000000) (twice e.stepLengthM)) e.posA = true)
    (hhi : F64.lt e.posA (twice e.stepLengthM) = true) : ∃ P, FiniteAt P e.posA ∧ -(3 * u) ≤ P ∧ P < 4 * u := by
  have hpos := hu.pos
  have hl := twice_finiteAt hu hs
  have hbound := F64.isFraction_neg_three_quarters.mul hl hl (n := -(3 * u)) (by omega) (by omega) (by omega)
  have hround := F64.roundPlace_within hl (t := -(3 * u)) (by omega) (by omega)
  obtain ⟨-, hnan, hlo⟩ := F64.lt_iff.1 hlo
  obtain ⟨-, -, hhi⟩ := F64.lt_iff.1 hhi
  rw [hbound.place_eq] at hlo
  rw [hl.place_eq] at hhi
  obtain ⟨P, hP, -, -⟩ := F64.within_of_isNaN hl hnan (by omega) hhi.le
  rw [hP.place_eq] at hlo hhi
  refine ⟨P, hP, ?_, hhi⟩
  by_contra h
  have := roundPlace_mono (t := P) (t' := -(3 * u)) (by omega)
  rw [hP.round_eq] at this
  omega

/-- R122: at 90 degrees, from `-0.75 L` to `L`, a step of at most `L` leaves the positions one wrap away. -/
theorem moved_oneWrapAway {dt : F64} {P : Int} (hphase : e.phaseDeg = F64.ofNat 90) (hP : FiniteAt P e.posA)
    (hP1 : -(3 * u) ≤ P) (hP2 : P < 4 * u) (hstep : Within (4 * u) (F64.mul (nextVelocity dt e) dt)) :
    ∃ A B, FiniteAt A (movedA dt e) ∧ FiniteAt B (movedB dt e) ∧ OneWrapAway (4 * u) A B := by
  have hpos := hu.pos
  obtain ⟨z1, h1⟩ := hu.one
  obtain ⟨z8, h8⟩ := hu.eight
  obtain ⟨D, hD, hD1, hD2⟩ := hstep
  have hl := twice_finiteAt hu hs
  have hA := F64.finiteAt_add h8 hP hD (by omega) (by omega)
  have hAlo := roundPlace_mono (t := -(7 * u)) (t' := P + D) (by omega)
  have hAhi := (F64.roundPlace_within h8 (t := P + D) (by omega) (by omega)).2
  have hshift : FiniteAt (-u) (F64.mul (twice e.stepLengthM) (phaseFraction e)) := by
    rw [phaseFraction_ninety hphase, F64.mul_comm_of_isFinite hl.finite rfl]
    exact F64.isFraction_neg_quarter.mul_exact hl h1.neg (by omega)
  rw [← movedA] at hA
  generalize roundPlace (P + D) = A at *
  have hBlo := (neg_eight_le_roundPlace hu).trans (roundPlace_mono (Int.sub_le_sub_right hAlo u))
  have hBA : roundPlace (A - u) ≤ A := (roundPlace_mono (by omega)).trans hA.round_eq.le
  have hB := hA.add hshift (F64.natAbs_lt_of_within h8 hBlo (hBA.trans hAhi))
  refine ⟨A, roundPlace (A - u), hA, hB, hBA, by omega, by omega, fun h => ?_, fun h => ?_⟩
  · by_contra hA0
    have := roundPlace_mono (t := -u) (t' := A - u) (by omega)
    rw [h1.neg.round_eq] at this
    omega
  · have := roundPlace_mono (t := 0) (t' := A - u) (by omega)
    rwa [F64.roundPlace_zero] at this

end Moved

/-- Settles O47: the moved positions are one wrap away (`moved_oneWrapAway`), and `wrap_within` brings them back. -/
theorem updateKeepsPositionsInRange : Obligations.UpdateKeepsPositionsInRange := by
  intro dt e
  dsimp only
  intro hphase hs1 hs2 hp1 hp2 hd1 hd2
  obtain ⟨u, hu, hs⟩ := F64.exists_quarterPeriod
    (F64.between_of_le (by decide) (by decide +kernel) (by decide) (by decide +kernel) hs1 hs2)
  have hl := twice_finiteAt hu hs
  obtain ⟨P, hP, hP1, hP2⟩ := posA_finiteAt hu hs hp1 hp2
  have hstep := (F64.within_iff hl).2 ⟨hd1, hd2⟩
  obtain ⟨A, B, hA, hB, h⟩ := moved_oneWrapAway hu hs hphase hP hP1 hP2 hstep
  obtain ⟨ha, hb⟩ := wrap_within hl hA hB h
  exact and_assoc.1 ⟨(F64.within_iff hl).1 ha, (F64.within_iff hl).1 hb⟩

end Encoder
end Machine
end Sys2Proof
end

section
/-! SUPPORT. Reception (spec/41_protocol_engine.md rules R150, R167; spec/30_encoding.md rule R95): the bytes in the buffer,
the telegram they are, and runs over the bytes of a schedule. -/

namespace Sys2Proof
namespace Machine

/-! ### The buffer. -/

/-- R42, R150: a byte put at offset `n` follows the `n` bytes before it. -/
theorem take_setIfInBounds (buf : Vector Byte 14) (b : Byte) {n : Nat} (h : n < 14) :
    (buf.setIfInBounds n b).toList.take (n + 1) = buf.toList.take n ++ [b] := by
  have hn : n < buf.toList.length := by rwa [Vector.length_toList]
  rw [Vector.toList_setIfInBounds, List.take_add_one, List.take_set_of_le le_rfl, List.getElem?_set_self hn,
    Option.toList_some]

/-- R65, R95: the buffer's first bytes, as many as the mode's telegram has, are the telegram `decodeBuffer` reads. -/
theorem decode_buffer (c : Bool) (buf : Vector Byte 14) :
    decode (if c then .operation else .connect) (buf.toList.take (if c then 14 else 8)) =
      .ok (decodeBuffer c buf) := by
  obtain ⟨⟨bytes⟩, h⟩ := buf
  match bytes, h with
  | [_, _, _, _, _, _, _, _, _, _, _, _, _, _], _ => cases c <;> rfl

/-- Settles O6: the completed bytes are the buffer's first ones, so they decode to the telegram `RxByte` runs. -/
theorem rxByteBuffersAndRunsCompleteTelegram : Obligations.RxByteBuffersAndRunsCompleteTelegram := by
  intro s b rest h
  refine ⟨fun hn => ?_, fun hn => step_of_incomplete h hn⟩
  obtain ⟨t, ht⟩ := exists_exec ((s.withArrivals rest).rxPut b).fetchTelegram ((s.withArrivals rest).rxPut b)
  have hdecode := decode_buffer s.connected (s.rxBuf.setIfInBounds s.rxLen b)
  rw [← hn, take_setIfInBounds _ _ h.2.2] at hdecode
  exact ⟨_, t, hdecode, (encodeOfDecodeIsIdentity _ _ _ hdecode).2.2, ht, step_of_complete h hn ht⟩

/-! ### Runs. -/

section Core
variable {M : Host.Core} {s t : M.State}

theorem run_succ (h : M.step s = .next t) (k : Nat) : M.run (k + 1) s = M.run k t := by rw [Host.Core.run, h]

theorem run_one (h : M.step s = .next t) : M.run 1 s = .next t := run_succ h 0

theorem run_add {m : Nat} (h : M.run m s = .next t) (n : Nat) : M.run (m + n) s = M.run n t := by
  induction m generalizing s with
  | zero =>
    obtain rfl := Host.Outcome.next.inj h
    rw [Nat.zero_add]
  | succ m ih =>
    rw [Host.Core.run] at h
    split at h
    · rename_i u hu
      rw [Nat.succ_add, run_succ hu, ih h]
    · cases h
    · cases h

end Core

/-- R150, R95: a run over bytes that complete no telegram buffers them and does nothing else. -/
theorem run_incompleteBytes {s : State} {bs : List Byte} {rest : List Event} (hh : s.halted = false)
    (ha : s.arrivals = bs.map .rxByte ++ rest) (hn : s.rxLen + bs.length < s.need) :
    ∃ buf : Vector Byte 14,
      core.run bs.length s = .next { s with rxBuf := buf, rxLen := s.rxLen + bs.length, arrivals := rest } ∧
      buf.toList.take (s.rxLen + bs.length) = s.rxBuf.toList.take s.rxLen ++ bs := by
  induction bs generalizing s with
  | nil =>
    obtain rfl : s.arrivals = rest := ha
    exact ⟨s.rxBuf, rfl, (List.append_nil _).symm⟩
  | cons b bs ih =>
    have hneed := s.need_le
    rw [List.length_cons] at hn ⊢
    have hb : s.ByteNext b (bs.map .rxByte ++ rest) := ⟨hh, ha, by omega⟩
    have hlen : s.rxLen + (bs.length + 1) = s.rxLen + 1 + bs.length := by omega
    obtain ⟨buf, hrun, htake⟩ := ih (s := (s.withArrivals (bs.map .rxByte ++ rest)).rxPut b) hh rfl
      (hlen.symm.trans_lt hn)
    refine ⟨buf, ?_, ?_⟩
    · refine (run_succ (M := core) (step_of_incomplete hb (by omega)) _).trans ?_
      rw [hrun, hlen]
      rfl
    · rw [hlen]
      refine htake.trans ?_
      change (s.rxBuf.setIfInBounds s.rxLen b).toList.take (s.rxLen + 1) ++ bs = _
      rw [take_setIfInBounds _ _ hb.2.2, List.append_assoc, List.singleton_append]

theorem State.lenConnect_le_need (s : State) : 8 ≤ s.need := by
  unfold State.need
  split <;> decide

/-- R151, R152: a CONNECT that fails the validation leaves the records alone. -/
theorem axleEffect_of_rejected {w : Word32} {p1 p2 : Half} (h : validConnect (f64OfF32 w) p1 p2 = false) (a : Axle)
    (e : Encoder) : axleEffect (.connect w p1 p2) a e = e := by
  rw [axleEffect_connect, h]
  rfl

/-- R151, R167: what the CONNECT a byte completes in a `Disconnected` block leaves: the mode and the records follow the
validation, a RESPONSE is requested, nothing is sent. -/
theorem step_of_connect {s : State} {b : Byte} {rest : List Event} {w : Word32} {p1 p2 : Half} (h : s.ByteNext b rest)
    (hc : s.connected = false) (hl : s.rxLen = 7)
    (hd : decode .connect (s.rxBuf.toList.take 7 ++ [b]) = .ok (.connect w p1 p2)) :
    ∃ t, step s = .next t ∧ t.connected = validConnect (f64OfF32 w) p1 p2 ∧
      (t.connected = false → t.enc1 = s.enc1 ∧ t.enc2 = s.enc2) ∧
      t.handshakePending = true ∧ t.rxLen = 0 ∧ t.tx = s.tx ∧ t.arrivals = rest ∧ t.halted = false := by
  obtain ⟨hrun, -⟩ := rxByteBuffersAndRunsCompleteTelegram s b rest h
  rw [hc, hl] at hrun
  obtain ⟨i, u, hi, -, hu, hstep⟩ := hrun rfl
  obtain rfl : Instr.connect w p1 p2 = i := Except.ok.inj (hd.symm.trans hi)
  have hmode : u.connected = validConnect (f64OfF32 w) p1 p2 := (exec_connected hu).trans (Bool.or_false _)
  have ho := exec_sameOutside hu
  refine ⟨_, hstep, hmode, fun hrej => ?_, exec_handshakePending hu, rfl, (exec_tx hu nofun).1, ho.arrivals,
    ho.halted.trans h.1⟩
  have hv := hmode.symm.trans hrej
  exact ⟨(exec_enc hu .one).trans (axleEffect_of_rejected hv .one _),
    (exec_enc hu .two).trans (axleEffect_of_rejected hv .two _)⟩

/-- R167: 14 bytes are the seven before a CONNECT's last byte, that byte, and six more. -/
theorem exists_split_fourteen {bs : List Byte} (h : bs.length = 14) :
    ∃ as b cs, bs = as ++ b :: cs ∧ as.length = 7 ∧ cs.length = 6 ∧ bs.take 8 = as ++ [b] ∧ bs.drop 8 = cs := by
  have hb : 7 < bs.length := by omega
  refine ⟨bs.take 7, bs[7], bs.drop 8, ?_, ?_, ?_, (List.take_append_getElem hb).symm, rfl⟩
  · rw [List.getElem_cons_drop, List.take_append_drop]
  · rw [List.length_take, h]
    rfl
  · rw [List.length_drop, h]

/-- Settles O11: seven bytes are buffered, the eighth completes the CONNECT, and the last six complete nothing in either
mode. -/
theorem fourteenBytesWhileDisconnectedAreMisframed : Obligations.FourteenBytesWhileDisconnectedAreMisframed := by
  intro s bs rest w p1 p2 hh hc hl hlen ha hd
  obtain ⟨as, b, cs, hbs, has, hcs, h8, hdrop⟩ := exists_split_fourteen hlen
  have hneed : s.need = 8 := by rw [State.need, hc]; rfl
  have ha' : s.arrivals = as.map .rxByte ++ .rxByte b :: (cs.map .rxByte ++ rest) := by simp [ha, hbs]
  obtain ⟨buf, hrun7, hbuf⟩ := run_incompleteBytes hh ha' (by omega)
  rw [hl, List.take_zero, List.nil_append, has, Nat.zero_add] at hbuf
  rw [hl, has, Nat.zero_add] at hrun7
  rw [h8, ← hbuf] at hd
  obtain ⟨t, hstep, hmode, hrej, hpend, hrx, htx, harr, hhalt⟩ :=
    step_of_connect (s := { s with rxBuf := buf, rxLen := 7, arrivals := .rxByte b :: (cs.map .rxByte ++ rest) })
      ⟨hh, rfl, (by decide : 7 < 14)⟩ hc rfl hd
  have hneed' := t.lenConnect_le_need
  obtain ⟨buf', hrun6, hbuf'⟩ := run_incompleteBytes hhalt harr (by omega)
  rw [hrx, List.take_zero, List.nil_append, hcs] at hbuf'
  rw [hrx, hcs] at hrun6
  exact ⟨_, (run_add hrun7 7).trans ((run_succ hstep 6).trans hrun6), hmode, hrej, hpend, rfl, hbuf'.trans hdrop.symm,
    htx, rfl⟩

end Machine
end Sys2Proof
end

section
/-! SUPPORT. The meanings of the received telegrams (spec/41_protocol_engine.md rules R151 to R163), each as the whole state
it leaves, and the CONNECTs the validation accepts. -/

namespace Sys2Proof
namespace Machine

/-! ### The validation of a CONNECT (R152). -/

theorem validConnect_iff {d : F64} {p1 p2 : Half} :
    validConnect d p1 p2 = true ↔ validDiameter d = true ∧ (80 ≤ p1.toNat ∧ p1.toNat ≤ 128) ∧
      (80 ≤ p2.toNat ∧ p2.toNat ≤ 128) := by
  rw [validConnect, Bool.and_eq_true, Bool.and_eq_true, validPpr_iff, validPpr_iff, and_assoc]

/-- R152: the diameter test says that the value is finite, not negative and of a magnitude between the bounds'. -/
theorem validDiameter_iff_between {d : F64} :
    validDiameter d = true ↔ F64.Between Config.diameterMin.mag Config.diameterMax.mag d := by
  rw [validDiameter_iff]
  constructor
  · rintro ⟨h1, h2⟩
    exact F64.between_of_le rfl (by decide +kernel) rfl (by decide +kernel) h1 h2
  · intro h
    have hnan : d.isNaN = false := F64.isNaN_of_isFinite h.finite
    rw [F64.le_iff, F64.le_iff, F64.place_of_sign h.sign]
    exact ⟨⟨rfl, hnan, Int.ofNat_le.2 h.lower⟩, hnan, rfl, Int.ofNat_le.2 h.upper⟩

/-- R152 (b): 0x3F4CCCCD is the first binary32 pattern whose value is not below the bound 0.8. -/
theorem diameterMin_le_units_iff (m : Nat) :
    Config.diameterMin.mag ≤ F64.patternUnits 24 m * 2 ^ F64.wireShift ↔ 0x3F4CCCCD ≤ m := by
  have hmono := (F64.patternUnits_strictMono (p := 24) (by omega)).monotone
  constructor
  · intro h
    by_contra hm
    have hbelow : F64.patternUnits 24 0x3F4CCCCC * 2 ^ F64.wireShift < Config.diameterMin.mag := by decide +kernel
    have hle := Nat.mul_le_mul_right (2 ^ F64.wireShift) (hmono (show m ≤ 0x3F4CCCCC by omega))
    exact absurd (h.trans hle) (Nat.not_le_of_lt hbelow)
  · intro h
    have hfirst : Config.diameterMin.mag ≤ F64.patternUnits 24 0x3F4CCCCD * 2 ^ F64.wireShift := by decide +kernel
    exact hfirst.trans (Nat.mul_le_mul_right _ (hmono h))

/-- R152 (b): 0x3FA00000 is the binary32 pattern of the bound 1.25. -/
theorem units_le_diameterMax_iff (m : Nat) :
    F64.patternUnits 24 m * 2 ^ F64.wireShift ≤ Config.diameterMax.mag ↔ m ≤ 0x3FA00000 := by
  have hmax : Config.diameterMax.mag = F64.patternUnits 24 0x3FA00000 * 2 ^ F64.wireShift := by decide +kernel
  rw [hmax, Nat.mul_le_mul_right_iff (Nat.two_pow_pos _),
    (F64.patternUnits_strictMono (p := 24) (by omega)).le_iff_le]

/-- R152 (b): the accepted diameters by their binary32 patterns. -/
theorem validDiameter_f64OfF32_iff (w : Word32) :
    validDiameter (f64OfF32 w) = true ↔ 0x3F4CCCCD ≤ w.toNat ∧ w.toNat ≤ 0x3FA00000 := by
  have hw := w.isLt
  rw [validDiameter_iff_between]
  constructor
  · intro h
    have hexp : f32Exp w ≠ 255 := by
      intro he
      have hfin := h.finite
      rw [f64OfF32, if_pos he] at hfin
      split at hfin <;> cases hfin
    obtain ⟨-, hsign, hmag⟩ := f64OfF32_finite hexp
    have hpos := hsign.symm.trans h.sign
    have h1 := h.lower
    have h2 := h.upper
    rw [hmag, diameterMin_le_units_iff, f32MagPattern] at h1
    rw [hmag, units_le_diameterMax_iff, f32MagPattern] at h2
    rw [BitVec.msb_eq_decide, decide_eq_false_iff_not] at hpos
    omega
  · intro h
    have hm : f32MagPattern w = w.toNat := Nat.mod_eq_of_lt (by omega)
    have hexp : f32Exp w ≠ 255 := by
      rw [Ne, f32Exp_eq_255_iff, hm]
      omega
    obtain ⟨hfin, hsign, hmag⟩ := f64OfF32_finite hexp
    refine ⟨hfin, ?_, ?_, ?_⟩
    · rw [hsign, BitVec.msb_eq_decide, decide_eq_false_iff_not]
      omega
    · rw [hmag, hm, diameterMin_le_units_iff]
      exact h.1
    · rw [hmag, hm, units_le_diameterMax_iff]
      exact h.2

/-- Settles O10: the diameter by its pattern (`validDiameter_f64OfF32_iff`), the two `ppr` as they are. -/
theorem acceptedConnectPatterns : Obligations.AcceptedConnectPatterns := by
  intro w p1 p2
  rw [validConnect_iff, validDiameter_f64OfF32_iff]

/-- Settles O9: by the validation's branches; accepted, both records are configured, else the state is kept. -/
theorem connectConfiguresOrWritesOnlyHandshake : Obligations.ConnectConfiguresOrWritesOnlyHandshake := by
  intro w p1 p2 s
  dsimp only
  rw [← and_assoc, ← validDiameter_iff, ← validConnect_iff, exec, execConnect, processConnect]
  refine ⟨fun h => ?_, fun h => ?_⟩
  · rw [if_pos h]
    rfl
  · rw [if_neg h]
    rfl

/-! ### The OPERATION telegrams (R153 to R163). -/

/-- R92: the command id is byte 8. -/
theorem encodeOperation_commandId (id : Byte) (p : Payload) : (encodeOperation id p)[8]? = some id := rfl

/-- Settles O12: both meanings are `requestResponse`. -/
theorem nopAndReservedOnlyRequestResponse : Obligations.NopAndReservedOnlyRequestResponse := fun _ _ _ =>
  ⟨rfl, rfl, encodeOperation_commandId _ _, encodeOperation_commandId _ _⟩

/-- Settles O13: each meaning is `setVelocity` on its axles, then `requestResponse`. -/
theorem velocityCommandsWriteTheirAxle : Obligations.VelocityCommandsWriteTheirAxle := fun _ _ =>
  ⟨rfl, rfl, rfl, encodeOperation_commandId _ _, encodeOperation_commandId _ _, encodeOperation_commandId _ _⟩

/-- Settles O14: each meaning is `setAcceleration` on its axles, then `requestResponse`. -/
theorem accelerationCommandsWriteTheirAxle : Obligations.AccelerationCommandsWriteTheirAxle := fun _ _ =>
  ⟨rfl, rfl, rfl, encodeOperation_commandId _ _, encodeOperation_commandId _ _, encodeOperation_commandId _ _⟩

/-- Settles O15: both records are reset ones, whose fields `Encoder.reset_eq` gives. -/
theorem disconnectResetsBothAxles : Obligations.DisconnectResetsBothAxles := by
  intro p s
  refine ⟨?_, encodeOperation_commandId _ _⟩
  change Host.Outcome.next { s with
    enc1 := s.enc1.reset, enc2 := s.enc2.reset, connected := false, handshakePending := false } = _
  rw [Encoder.reset_eq, Encoder.reset_eq]
  rfl

/-- Settles O16: the meaning is `halt` on both axles, then `requestResponse`. -/
theorem stopZeroesMotion : Obligations.StopZeroesMotion := fun _ _ => ⟨rfl, encodeOperation_commandId _ _⟩

end Machine
end Sys2Proof
end

section
/-! SUPPORT. `send_response` (spec/41_protocol_engine.md rules R164, R165): the 13 bytes, the velocities in them, and the one
step that sends them. -/

namespace Sys2Proof
namespace Machine

/-! ### The bytes of a RESPONSE (R93). -/

theorem responseOwed_iff (s : State) : s.responseOwed = true ↔ s.connected = true ∧ s.handshakePending = true := by
  rw [State.responseOwed, Bool.and_eq_true]

theorem sendResponse_of_owed {s : State} (h : s.responseOwed = true) :
    s.sendResponse = ((s.txAppend (encode s.responseTelegram)).drawNaNs).withHandshake false := if_pos h

theorem sendResponse_of_not_owed {s : State} (h : s.responseOwed = false) : s.sendResponse = s := by
  rw [State.sendResponse, h]
  rfl

/-- R93, R14: the pattern supplied for a NaN is read for a NaN only. -/
theorem f32OfF64_of_ne_nan {x : F64} (h : x ≠ .nan) (n n' : Word32) : f32OfF64 n x = f32OfF64 n' x := by
  cases x with
  | nan => exact absurd rfl h
  | inf s => rfl
  | fin s e f => rfl

/-- R14, U6: a NaN velocity is sent as a NaN pattern. -/
theorem sentVelocity_of_nan {s : State} {a : Axle} (h : (s.enc a).velocityMps = .nan) (n : Nat) :
    f32IsNaN (s.sentVelocity a n) = true := by
  rw [State.sentVelocity, h]
  exact freeNaNPatternsAreAllNaNs.1 _

/-- R164: a velocity that came from a binary32 is sent as that very pattern. -/
theorem sentVelocity_of_widened {s : State} {a : Axle} {w : Word32} (h : (s.enc a).velocityMps = f64OfF32 w)
    (hw : f32IsNaN w = false) (n : Nat) : s.sentVelocity a n = w := by
  rw [State.sentVelocity, h, narrowingInvertsWidening w _ hw]

/-- Settles O17: the two velocity patterns are those of `sentVelocity`. -/
theorem responseSendsThirteenBytes : Obligations.ResponseSendsThirteenBytes := by
  intro v1 v2 c1 c2 s
  refine ⟨fun h => congrArg _ (sendResponse_of_not_owed h), fun h =>
    ⟨s.sentVelocity .one s.nanDraws, s.sentVelocity .two (s.nanDraws + 1), s.nanDraws + 2,
      fun n hv => f32OfF64_of_ne_nan hv _ _, fun n hv => f32OfF64_of_ne_nan hv _ _,
      fun hv => sentVelocity_of_nan (a := .one) hv _, fun hv => sentVelocity_of_nan (a := .two) hv _,
      congrArg _ (sendResponse_of_owed h)⟩⟩

/-- R93: bytes 0 to 3 of a RESPONSE are encoder 1's velocity, bytes 4 to 7 encoder 2's. -/
theorem sentVelocity_slots {s : State} (h : s.responseOwed = true) :
    (s.sendResponse.tx.drop s.tx.length).take 4 = bytesLe32 (s.sentVelocity .one s.nanDraws) ∧
      (s.sendResponse.tx.drop (s.tx.length + 4)).take 4 = bytesLe32 (s.sentVelocity .two (s.nanDraws + 1)) := by
  rw [State.sendResponse_tx, if_pos h, List.drop_left, List.drop_length_add_append]
  exact ⟨rfl, rfl⟩

section Commanded
variable {i : Instr} {p : Payload} {s t : State} (ht : exec i s = .next t)
include ht

/-- R155 to R157, R153: while `Connected` a velocity command leaves a RESPONSE owed and sends nothing. -/
theorem velocityCommand_owes (hi : i = .setv1 p ∨ i = .setv2 p ∨ i = .setvb p) (hc : s.connected = true) :
    t.responseOwed = true ∧ t.tx = s.tx := by
  rw [responseOwed_iff, exec_connected ht, exec_handshakePending ht, hc]
  rcases hi with rfl | rfl | rfl <;> exact ⟨⟨rfl, rfl⟩, (exec_tx ht nofun).1⟩

theorem velocityCommand_one (hi : i = .setv1 p ∨ i = .setvb p) : (t.enc .one).velocityMps = f64OfF32 p.valA := by
  rw [exec_enc ht]
  rcases hi with rfl | rfl <;> rfl

theorem velocityCommand_two (hi : i = .setv2 p ∨ i = .setvb p) : (t.enc .two).velocityMps = f64OfF32 p.valB := by
  rw [exec_enc ht]
  rcases hi with rfl | rfl <;> rfl

end Commanded

/-- Settles O46: the command stores the exact image of its slot, and what its RESPONSE sends of it narrows back to the
slot. -/
theorem commandedVelocityIsReportedExactly : Obligations.CommandedVelocityIsReportedExactly := by
  intro p i s v1 v2 c1 c2 hc
  obtain ⟨t, ht⟩ := exists_exec i s
  refine ⟨fun hi hw => ⟨t, t.sendResponse, ht, rfl, ?_⟩, fun hi hw => ⟨t, t.sendResponse, ht, rfl, ?_⟩⟩
  · obtain ⟨howed, htx⟩ := velocityCommand_owes ht (hi.imp_right .inr) hc
    rw [← htx, (sentVelocity_slots howed).1, sentVelocity_of_widened (velocityCommand_one ht hi) hw, bytesLe32]
  · obtain ⟨howed, htx⟩ := velocityCommand_owes ht (.inr hi) hc
    rw [← htx, (sentVelocity_slots howed).2, sentVelocity_of_widened (velocityCommand_two ht hi) hw, bytesLe32]

/-! ### The tick that sends (R165). -/

/-- R93: a RESPONSE is 12 bytes and the trailer. -/
theorem encode_responseTelegram (s : State) :
    ∃ bs : List Byte, bs.length = 12 ∧ encode s.responseTelegram = bs ++ [0xDA#8] := ⟨_, rfl, rfl⟩

/-- R191, R165: a slow tick sends the RESPONSE that is owed; any other tick sends nothing and leaves `handshake_pending`
alone. -/
theorem onTick_sends (s : State) :
    (s.SlowDue ∧ s.responseOwed = true ∧ s.onTick.tx = s.tx ++ encode s.responseTelegram ∧
      s.onTick.handshakePending = false) ∨
    (¬ (s.SlowDue ∧ s.responseOwed = true) ∧ s.onTick.tx = s.tx ∧
      s.onTick.handshakePending = s.handshakePending) := by
  rw [slowDue_iff, State.onTick_tx, State.onTick_handshake, ← Bool.and_eq_true]
  cases h : s.slowTickDue && s.responseOwed with
  | true =>
    rw [Bool.and_eq_true] at h
    exact .inl ⟨h.1, h.2, rfl, rfl⟩
  | false => exact .inr ⟨nofun, rfl, rfl⟩

/-- Settles O32: by cases on what a step can be; a received telegram is no RESPONSE. -/
theorem onlySlowTicksSend : Obligations.OnlySlowTicksSend := by
  intro s t h
  rcases step_inversion h with ⟨hs, rfl⟩ | ⟨b, rest, -, -, rfl⟩ | ⟨b, rest, u, -, -, hu, rfl⟩
  · rcases onTick_sends (s.withArrivals s.arrivals.tail) with ⟨hdue, howed, htx, hpend⟩ | ⟨-, htx, -⟩
    · obtain ⟨hc, hp⟩ := (responseOwed_iff s).1 howed
      obtain ⟨bs, hlen, henc⟩ := encode_responseTelegram (s.withArrivals s.arrivals.tail)
      rw [henc, ← List.append_assoc] at htx
      exact .inr ⟨hs, hdue, hc, hp, hpend, bs, hlen, htx⟩
    · exact .inl htx
  · exact .inl rfl
  · exact .inl (exec_tx hu (fetchTelegram_format _)).1

/-! ### The wait for it (R165, R191). -/

/-- R165 (4): `u` has waited `k` ticks since `s`: the RESPONSE is still owed and nothing was sent. -/
structure Waiting (s : State) (k : Nat) (u : State) : Prop where
  halted : u.halted = false
  arrivals : u.arrivals = []
  owed : u.responseOwed = true
  slowTicks : u.slowTicksElapsed = s.slowTicksElapsed + k
  params : u.params = s.params
  tx : u.tx = s.tx

namespace Waiting
variable {s u : State} {k : Nat} (h : Waiting s k u)
include h

theorem step_eq : step u = .next u.onTick := by
  rw [step_of_tickNext ⟨h.halted, .inl h.arrivals⟩]
  congr 2
  apply State.ext_fields <;> simp [h.arrivals]

theorem slowDue_iff : u.SlowDue ↔ s.slowTicksElapsed + k + 1 = s.params.slowPeriodTicks := by
  have := State.one_le_slowPeriodTicks s.params
  rw [State.SlowDue, h.slowTicks, h.params]
  omega

/-- R191: a tick before the slow one. -/
theorem tick (hk : s.slowTicksElapsed + k + 1 < s.params.slowPeriodTicks) : Waiting s (k + 1) u.onTick := by
  have hdue : ¬ u.SlowDue := fun hd => hk.ne (h.slowDue_iff.1 hd)
  obtain ⟨htx, hpend⟩ := ((onTick_sends u).resolve_left fun hs => hdue hs.1).2
  obtain ⟨hc, hp⟩ := (responseOwed_iff u).1 h.owed
  refine ⟨(State.onTick_halted u).trans h.halted, (State.onTick_arrivals u).trans h.arrivals, ?_, ?_,
    (State.onTick_params u).trans h.params, htx.trans h.tx⟩
  · exact (responseOwed_iff _).2 ⟨(State.onTick_connected u).trans hc, hpend.trans hp⟩
  · rw [State.onTick_slowTicks, if_neg (mt (Machine.slowDue_iff u).2 hdue), h.slowTicks, Nat.add_assoc]

end Waiting

/-- R165 (4): every tick before the slow one is waited. -/
theorem exists_waiting {s : State} (hs : Waiting s 0 s) {k : Nat}
    (hk : s.slowTicksElapsed + k < s.params.slowPeriodTicks) : ∃ u, core.run k s = .next u ∧ Waiting s k u := by
  induction k with
  | zero => exact ⟨s, rfl, hs⟩
  | succ k ih =>
    obtain ⟨u, hrun, hu⟩ := ih (by omega)
    exact ⟨u.onTick, (run_add hrun 1).trans (run_one hu.step_eq), hu.tick hk⟩

/-- Settles O33: all ticks but the last are waited, and the last one is the slow tick. -/
theorem owedResponseComesWithinSlowPeriod : Obligations.OwedResponseComesWithinSlowPeriod := by
  intro s hh ha hc hp hlt
  have hs : Waiting s 0 s := ⟨hh, ha, (responseOwed_iff s).2 ⟨hc, hp⟩, rfl, rfl, rfl⟩
  refine ⟨?_, fun k hk => ?_⟩
  · obtain ⟨k, hk⟩ : ∃ k, s.params.slowPeriodTicks - s.slowTicksElapsed = k + 1 := Nat.exists_eq_add_one.2 (by omega)
    obtain ⟨u, hrun, hu⟩ := exists_waiting hs (k := k) (by omega)
    have hdue : u.SlowDue := hu.slowDue_iff.2 (by omega)
    obtain ⟨-, -, htx, hpend⟩ := (onTick_sends u).resolve_right fun hn => hn.1 ⟨hdue, hu.owed⟩
    rw [hk, ← hu.tx]
    exact ⟨u.onTick, _, (run_add hrun 1).trans (run_one hu.step_eq), htx, rfl, hpend⟩
  · obtain ⟨u, hrun, hu⟩ := exists_waiting hs (k := k) (by omega)
    exact ⟨u, hrun, hu.tx, ((responseOwed_iff u).1 hu.owed).2⟩

end Machine
end Sys2Proof
end

section
/-! SUPPORT. The transition table of the two flags (spec/41_protocol_engine.md rule R166): what a tick and the last byte of a
telegram make of them. -/

namespace Sys2Proof
namespace Machine

/-- R161, R166: while `Connected` DISCONNECT clears both flags, and every other OPERATION leaves both set. -/
theorem flagsAfter_operationOf (id : Byte) (p : Payload) (pending : Bool) :
    modeAfter (operationOf id p) true = decide (id ≠ 0x07#8) ∧
      handshakeAfter (operationOf id p) true pending = decide (id ≠ 0x07#8) := by
  rcases commandId_cases id with h | rfl | rfl | rfl | rfl | rfl | rfl | rfl | rfl | rfl
  · rw [operationOf_of_reserved h, decide_eq_true (ne_of_reserved h rfl)]
    exact ⟨rfl, rfl⟩
  all_goals exact ⟨rfl, rfl⟩

/-- R95: while `Connected` the telegram in the buffer is the one byte 8 selects. -/
theorem fetchTelegram_of_connected {s : State} (h : s.connected = true) :
    ∃ p, s.fetchTelegram = operationOf s.rxBuf[8] p := by
  rw [State.fetchTelegram, decodeBuffer, if_pos h]
  exact ⟨_, rfl⟩

/-- R91: what decodes as a CONNECT is one. -/
theorem exists_connect_of_decode {bs : List Byte} {i : Instr} (h : decode .connect bs = .ok i) :
    ∃ w p1 p2, i = .connect w p1 p2 := by
  obtain ⟨-, hf, -⟩ := encodeOfDecodeIsIdentity _ _ _ h
  cases i with
  | connect w p1 p2 => exact ⟨w, p1, p2, rfl⟩
  | _ => cases hf

section LastByte
variable {s t : State} {b : Byte} {rest : List Event} (h : s.ByteNext b rest) (hstep : step s = .next t)
include h hstep

/-- R166: the flags after the last byte of an OPERATION, by its command id, which was buffered before. -/
theorem flags_of_operation (hc : s.connected = true) (hl : s.rxLen = 13) :
    t.connected = decide (s.rxBuf[8] ≠ 0x07#8) ∧ t.handshakePending = decide (s.rxBuf[8] ≠ 0x07#8) := by
  have hn : s.rxLen + 1 = s.need := by rw [State.need, hc, hl]; rfl
  obtain ⟨u, hu⟩ := exists_exec ((s.withArrivals rest).rxPut b).fetchTelegram ((s.withArrivals rest).rxPut b)
  obtain rfl := Host.Outcome.next.inj (hstep.symm.trans (step_of_complete h hn hu))
  have hid : (s.rxBuf.setIfInBounds s.rxLen b)[8] = s.rxBuf[8] := Vector.getElem_setIfInBounds_ne _ (by omega)
  obtain ⟨p, hp⟩ := fetchTelegram_of_connected (s := (s.withArrivals rest).rxPut b) hc
  rw [← hid]
  obtain ⟨hmode, hpend⟩ := flagsAfter_operationOf (s.rxBuf.setIfInBounds s.rxLen b)[8] p s.handshakePending
  have hmode' := exec_connected hu
  have hpend' := exec_handshakePending hu
  rw [hp, State.rxPut_connected, State.withArrivals_connected, hc] at hmode' hpend'
  exact ⟨hmode'.trans hmode, hpend'.trans hpend⟩

/-- R166: the flags after the last byte of a CONNECT, by the validation of the bytes. -/
theorem flags_of_connect (hc : s.connected = false) (hl : s.rxLen = 7) :
    t.handshakePending = true ∧ ∃ w p1 p2, decode .connect (s.rxBuf.toList.take 7 ++ [b]) = .ok (.connect w p1 p2) ∧
      t.connected = validConnect (f64OfF32 w) p1 p2 := by
  obtain ⟨i, hi⟩ := exists_decode_connect (bs := s.rxBuf.toList.take 7 ++ [b]) (by simp)
  obtain ⟨w, p1, p2, rfl⟩ := exists_connect_of_decode hi
  obtain ⟨t', hstep', hmode, -, hpend, -⟩ := step_of_connect h hc hl hi
  obtain rfl := Host.Outcome.next.inj (hstep.symm.trans hstep')
  exact ⟨hpend, w, p1, p2, hi, hmode⟩

end LastByte

/-- R191, R164: what a tick makes of the flags. -/
theorem flags_of_tick {s t : State} (h : s.TickNext) (hstep : step s = .next t) :
    t.connected = s.connected ∧
      (s.SlowDue → s.connected = true → t.handshakePending = false) ∧
      (¬ (s.SlowDue ∧ s.connected = true) → t.handshakePending = s.handshakePending) := by
  obtain rfl := Host.Outcome.next.inj (hstep.symm.trans (step_of_tickNext h))
  refine ⟨State.onTick_connected _, ?_⟩
  rcases onTick_sends (s.withArrivals s.arrivals.tail) with ⟨hdue, howed, -, hpend⟩ | ⟨hn, -, hpend⟩
  · exact ⟨fun _ _ => hpend, fun hn => absurd ⟨hdue, ((responseOwed_iff s).1 howed).1⟩ hn⟩
  · refine ⟨fun hdue hc => ?_, fun _ => hpend⟩
    rw [hpend, ← Bool.not_eq_true]
    exact fun hp => hn ⟨hdue, (responseOwed_iff s).2 ⟨hc, hp⟩⟩

/-- Settles O35: by what comes next: a tick, a byte that completes nothing, the last byte of either format. -/
theorem flagTransitionsAreTheTable : Obligations.FlagTransitionsAreTheTable := by
  refine ⟨fun _ _ => ⟨rfl, rfl⟩, fun s t hstep => ⟨fun h => flags_of_tick h hstep, fun b rest h =>
    ⟨fun hn => ?_, flags_of_connect h hstep, flags_of_operation h hstep⟩⟩⟩
  obtain rfl := Host.Outcome.next.inj (hstep.symm.trans (step_of_incomplete h hn))
  exact ⟨rfl, rfl⟩

end Machine
end Sys2Proof
end

section
/-! SUPPORT. The tick as a whole (spec/42_scheduler.md rules R190 to R193): what a slow and another tick start from, send
and count, and what a tick does in each mode. -/

namespace Sys2Proof
namespace Machine

/-! ### Slow ticks and other ticks (R190 step 1, R191). -/

theorem entering_of_slowDue {s : State} (h : s.SlowDue) (e : Encoder) : s.entering e = e.clearCount :=
  if_pos ((slowDue_iff s).1 h)

theorem entering_of_not_slowDue {s : State} (h : ¬ s.SlowDue) (e : Encoder) : s.entering e = e :=
  if_neg (mt (slowDue_iff s).2 h)

theorem onTick_slowTicks_of_slowDue {s : State} (h : s.SlowDue) : s.onTick.slowTicksElapsed = 0 := by
  rw [State.onTick_slowTicks, if_pos ((slowDue_iff s).1 h)]

theorem onTick_slowTicks_of_not_slowDue {s : State} (h : ¬ s.SlowDue) :
    s.onTick.slowTicksElapsed = s.slowTicksElapsed + 1 := by
  rw [State.onTick_slowTicks, if_neg (mt (slowDue_iff s).2 h)]

/-- R193: a tick counts modulo SLOW_PERIOD_TICKS. -/
theorem onTick_slowTicks_eq_mod {s : State} (h : s.slowTicksElapsed < s.params.slowPeriodTicks) :
    s.onTick.slowTicksElapsed = (s.slowTicksElapsed + 1) % s.params.slowPeriodTicks := by
  by_cases hdue : s.SlowDue
  · have hend : s.slowTicksElapsed + 1 = s.params.slowPeriodTicks := by
      rw [State.SlowDue] at hdue
      omega
    rw [onTick_slowTicks_of_slowDue hdue, hend, Nat.mod_self]
  · have hlt : s.slowTicksElapsed + 1 < s.params.slowPeriodTicks := by
      rw [State.SlowDue] at hdue
      omega
    rw [onTick_slowTicks_of_not_slowDue hdue, Nat.mod_eq_of_lt hlt]

/-- R191: what a slow tick sends, and its flag and NaN counter, are `send_response`'s. -/
theorem onTick_sends_of_slowDue {s : State} (h : s.SlowDue) :
    s.onTick.tx = s.sendResponse.tx ∧ s.onTick.handshakePending = s.sendResponse.handshakePending ∧
      s.onTick.nanDraws = s.sendResponse.nanDraws := by
  rw [State.onTick_tx, State.onTick_handshake, State.onTick_nanDraws, (slowDue_iff s).1 h, Bool.true_and,
    State.sendResponse_tx, State.sendResponse_handshake, State.sendResponse_nanDraws]
  exact ⟨rfl, rfl, rfl⟩

/-- U6: a tick that sends no RESPONSE draws no NaN pattern. -/
theorem onTick_nanDraws_of_not_sends {s : State} (h : ¬ (s.SlowDue ∧ s.responseOwed = true)) :
    s.onTick.nanDraws = s.nanDraws := by
  rw [slowDue_iff, ← Bool.and_eq_true] at h
  rw [State.onTick_nanDraws, if_neg h]

/-! ### The two modes (R190 step 2, R192). -/

section Connected
variable {s : State} (hc : s.connected = true) (a : Axle)
include hc

theorem onTick_enc_of_connected : s.onTick.enc a = State.advanced s.params.dt (s.entering (s.enc a)) := by
  rw [onTick_enc, if_pos hc]

theorem onTick_out_of_connected : s.onTick.out a = State.driven s.params.dt (s.entering (s.enc a)) := by
  rw [onTick_out, if_pos hc]

/-- R190, R192, R123: one axle in a connected tick. -/
theorem onTick_axle_of_connected :
    ∃ u : Encoder, (s.SlowDue → u = Encoder.update s.params.dt { s.enc a with pulseCount := 0#16 }) ∧
      (¬ s.SlowDue → u = Encoder.update s.params.dt (s.enc a)) ∧
      s.onTick.out a = ⟨u.levelA, u.levelB⟩ ∧ s.onTick.enc a = u.decode (s.onTick.out a).a (s.onTick.out a).b := by
  refine ⟨Encoder.update s.params.dt (s.entering (s.enc a)), fun hdue => ?_, fun hdue => ?_,
    onTick_out_of_connected hc a, ?_⟩
  · rw [entering_of_slowDue hdue, Encoder.clearCount]
  · rw [entering_of_not_slowDue hdue]
  · rw [onTick_out_of_connected hc a, onTick_enc_of_connected hc a]
    rfl

/-- R164, R191: what a connected tick sends is decided by `handshake_pending`. -/
theorem onTick_sends_of_connected :
    (s.SlowDue → s.handshakePending = true →
      s.onTick.tx = s.tx ++ encode s.responseTelegram ∧ s.onTick.handshakePending = false) ∧
    (¬ (s.SlowDue ∧ s.handshakePending = true) →
      s.onTick.tx = s.tx ∧ s.onTick.handshakePending = s.handshakePending ∧ s.onTick.nanDraws = s.nanDraws) := by
  have howed : s.responseOwed = true ↔ s.handshakePending = true := by rw [responseOwed_iff, and_iff_right hc]
  rw [← howed]
  rcases onTick_sends s with ⟨hdue, how, htx, hpend⟩ | ⟨hn, htx, hpend⟩
  · exact ⟨fun _ _ => ⟨htx, hpend⟩, fun hn => absurd ⟨hdue, how⟩ hn⟩
  · exact ⟨fun hdue how => absurd ⟨hdue, how⟩ hn, fun _ => ⟨htx, hpend, onTick_nanDraws_of_not_sends hn⟩⟩

end Connected

section Disconnected
variable {s : State} (hc : s.connected = false)
include hc

theorem onTick_of_disconnected : s.onTick = s.slowPart :=
  if_neg (by rw [State.slowPart_connected, hc]; decide)

theorem sendResponse_of_disconnected : s.sendResponse = s :=
  sendResponse_of_not_owed (by rw [State.responseOwed, hc, Bool.false_and])

theorem onTick_of_disconnected_of_slowDue (h : s.SlowDue) :
    s.onTick = ((s.onEnc .one Encoder.clearCount).onEnc .two Encoder.clearCount).withSlowTicks 0 := by
  rw [onTick_of_disconnected hc, State.slowPart, if_pos ((slowDue_iff s).1 h), sendResponse_of_disconnected hc]

theorem onTick_of_disconnected_of_not_slowDue (h : ¬ s.SlowDue) :
    s.onTick = s.withSlowTicks (s.slowTicksElapsed + 1) := by
  rw [onTick_of_disconnected hc, State.slowPart, if_neg (mt (slowDue_iff s).2 h)]

end Disconnected

/-- R191, R192: a slow tick's fast part starts from a count of 0, and a decode step adds at most 1. -/
theorem onTick_count_of_slowDue {s : State} (hdue : s.SlowDue) (a : Axle) :
    (s.onTick.enc a).pulseCount.toNat ≤ 1 ∧ (s.connected = false → (s.onTick.enc a).pulseCount = 0#16) := by
  rw [onTick_enc, entering_of_slowDue hdue]
  cases s.connected with
  | true => exact ⟨Encoder.decode_count_le _ _ _, nofun⟩
  | false => exact ⟨Nat.zero_le 1, fun _ => rfl⟩

/-! ### The obligations. -/

/-- Settles O27: each axle is advanced from the record the tick's slow part leaves it (`State.entering`), and the tick
sends what is owed (`onTick_sends`). -/
theorem connectedTickAdvancesBothAxles : Obligations.ConnectedTickAdvancesBothAxles := by
  intro s h hc
  obtain ⟨hsent, hquiet⟩ := onTick_sends_of_connected (s := s.withArrivals s.arrivals.tail) hc
  exact ⟨_, step_of_tickNext h, onTick_axle_of_connected (s := s.withArrivals s.arrivals.tail) hc,
    onTick_slowTicks_of_slowDue (s := s.withArrivals s.arrivals.tail),
    onTick_slowTicks_of_not_slowDue (s := s.withArrivals s.arrivals.tail), hsent, hquiet,
    (State.onTick_connected _).trans hc, State.onTick_rxBuf _, State.onTick_rxLen _, State.onTick_halted _,
    State.onTick_params _, State.onTick_arrivals _⟩

/-- Settles O28: `exec` of any RESPONSE is `send_response`, which is what a slow tick calls. -/
theorem slowTickRunsResponse : Obligations.SlowTickRunsResponse := by
  intro s h hdue
  obtain ⟨htx, hpend, hnan⟩ := onTick_sends_of_slowDue (s := s.withArrivals s.arrivals.tail) hdue
  exact ⟨_, (s.withArrivals s.arrivals.tail).sendResponse, rfl, step_of_tickNext h, htx, hpend,
    (State.onTick_connected _).trans (State.sendResponse_connected _).symm, hnan⟩

/-- Settles O29: the tick is its slow part alone, in which `send_response` does nothing. -/
theorem disconnectedTickMovesNothing : Obligations.DisconnectedTickMovesNothing := by
  intro s h hc
  rw [step_of_tickNext h]
  exact ⟨fun hdue => congrArg _ (onTick_of_disconnected_of_slowDue (s := s.withArrivals s.arrivals.tail) hc hdue),
    fun hdue => congrArg _ (onTick_of_disconnected_of_not_slowDue (s := s.withArrivals s.arrivals.tail) hc hdue)⟩

/-- Settles O30: by cases on what a step can be. -/
theorem slowCounterCountsTicksCyclically : Obligations.SlowCounterCountsTicksCyclically := by
  intro s t hstep hlt
  rcases step_inversion hstep with ⟨h, rfl⟩ | ⟨b, rest, h, -, rfl⟩ | ⟨b, rest, u, h, -, hu, rfl⟩
  · exact ⟨fun _ => onTick_slowTicks_eq_mod (s := s.withArrivals s.arrivals.tail) hlt, fun hn => absurd h hn⟩
  · exact ⟨fun ht => absurd ht (not_tickNext_of_byteNext h), fun _ => rfl⟩
  · exact ⟨fun ht => absurd ht (not_tickNext_of_byteNext h), fun _ => (exec_sameOutside hu).slowTicks⟩

/-- Settles O31: in either mode the tick starts from cleared counts (`onTick_count_of_slowDue`). -/
theorem slowTickClearsCounts : Obligations.SlowTickClearsCounts := fun s a h hdue =>
  ⟨_, step_of_tickNext h, onTick_count_of_slowDue (s := s.withArrivals s.arrivals.tail) hdue a⟩

end Machine
end Sys2Proof
end

section
/-! SUPPORT. Exceptions (spec/60_exceptions.md rules R210, R213; spec/20_memory.md rule R71): no error stops the block, and
the tick, its one interrupt, does not touch the reception of a telegram, so it commutes with a byte that completes none. -/

namespace Sys2Proof
namespace Machine

/-- Settles O8: the invariant keeps `rx_len` where every step succeeds (`State.Inv.canStep`). -/
theorem nothingTrapsFromInvariant : Obligations.NothingTrapsFromInvariant := fun _ h hh => h.canStep hh

namespace State

/-! ### A tick neither reads nor writes the reception (R213). -/

/-- R42, R16: the fields of reception replaced: the telegram buffer, its length and what is still to arrive. -/
def withReception (buf : Vector Byte 14) (n : Nat) (es : List Event) (s : State) : State :=
  { s with rxBuf := buf, rxLen := n, arrivals := es }

section Reception
variable (buf : Vector Byte 14) (n : Nat) (es : List Event) (s : State)

theorem sendResponse_withReception :
    (s.withReception buf n es).sendResponse = s.sendResponse.withReception buf n es := by
  rw [sendResponse, sendResponse, apply_ite (withReception buf n es)]
  rfl

theorem slowPart_withReception : (s.withReception buf n es).slowPart = s.slowPart.withReception buf n es := by
  rw [slowPart, slowPart, apply_ite (withReception buf n es), sendResponse_withReception]
  rfl

theorem fastPart_withReception : (s.withReception buf n es).fastPart = s.fastPart.withReception buf n es := by
  rw [fastPart, fastPart, apply_ite (withReception buf n es)]
  rfl

theorem onTick_withReception : (s.withReception buf n es).onTick = s.onTick.withReception buf n es := by
  rw [onTick, slowPart_withReception, fastPart_withReception, onTick]

end Reception

theorem onTick_withArrivals (es : List Event) (s : State) : (s.withArrivals es).onTick = s.onTick.withArrivals es := by
  refine (onTick_withReception s.rxBuf s.rxLen es s).trans ?_
  rw [← onTick_rxBuf, ← onTick_rxLen]
  rfl

theorem onTick_rxPut (b : Byte) (s : State) : (s.rxPut b).onTick = s.onTick.rxPut b := by
  refine (onTick_withReception (s.rxBuf.setIfInBounds s.rxLen b) (s.rxLen + 1) s.arrivals s).trans ?_
  rw [← onTick_rxBuf, ← onTick_rxLen, ← onTick_arrivals]
  rfl

end State

/-! ### The two steps of a schedule that begins with a tick or with an incomplete byte. -/

section Schedule
variable {s : State} (hh : s.halted = false) (rest : List Event)
include hh

/-- R190: a tick at the head of the schedule is taken. -/
theorem step_tick_cons : step (s.withArrivals (.tick :: rest)) = .next (s.onTick.withArrivals rest) := by
  rw [← State.onTick_withArrivals]
  exact step_of_tickNext (s := s.withArrivals (.tick :: rest)) ⟨hh, .inr rfl⟩

/-- R150: a byte at the head of the schedule that completes no telegram is buffered. -/
theorem step_incompleteByte_cons (b : Byte) (hl : s.rxLen < 14) (hn : s.rxLen + 1 ≠ s.need) :
    step (s.withArrivals (.rxByte b :: rest)) = .next ((s.rxPut b).withArrivals rest) :=
  step_of_incomplete (s := s.withArrivals (.rxByte b :: rest)) ⟨hh, rfl, hl⟩ hn

end Schedule

theorem State.onTick_need (s : State) : s.onTick.need = s.need := by rw [State.need, State.need, State.onTick_connected]

/-- Settles O34: in either order the state is the ticked one with the byte put, since the tick leaves the mode and the
reception alone (`State.onTick_rxPut`). -/
theorem ticksCommuteWithIncompleteBytes : Obligations.TicksCommuteWithIncompleteBytes := by
  intro s b rest hh hl hn
  have tick_byte : core.run 2 (s.withArrivals (.tick :: .rxByte b :: rest)) =
      .next ((s.onTick.rxPut b).withArrivals rest) :=
    (run_succ (M := core) (step_tick_cons hh _) 1).trans (run_one (M := core) (step_incompleteByte_cons
      ((State.onTick_halted s).trans hh) rest b (by rwa [State.onTick_rxLen])
      (by rwa [State.onTick_rxLen, State.onTick_need])))
  have byte_tick : core.run 2 (s.withArrivals (.rxByte b :: .tick :: rest)) =
      .next ((s.rxPut b).onTick.withArrivals rest) :=
    (run_succ (M := core) (step_incompleteByte_cons hh _ b hl hn) 1).trans
      (run_one (M := core) (step_tick_cons (s := s.rxPut b) hh rest))
  rw [State.onTick_rxPut] at byte_tick
  exact ⟨_, tick_byte, byte_tick⟩

end Machine
end Sys2Proof
end
